-- ==== Sys2Proof/Word.lean ====
section
/-! DEFINITION. The word types of QDEC (00_scope R12, R13: bit 0 is the least significant bit of every value). -/

namespace Sys2Proof

/-- The command word `cmd[4:0]` (30_encoding R76). -/
abbrev Word := BitVec 5

/-- An Encoder State: channel A in bit 1, channel B in bit 0, all four values legal (30_encoding R70). -/
abbrev EncoderState := BitVec 2

/-- A cell of the transition ROM (30_encoding R72). -/
abbrev RomCell := BitVec 2

/-- An address of the transition ROM, `prior_state ++ new_state` (20_memory R52). -/
abbrev RomAddr := BitVec 4

/-- The width of `position`, `missed_count` and `rsp_data` (00_scope R9, R10; 30_encoding R84). -/
abbrev Data := BitVec 64

end Sys2Proof
end

