-- ==== Sys2Proof/Syntax.lean ====
section
/-! DEFINITION. The six commands (00_scope R3; 30_encoding R76, R90). A level or flag is one bit, `true` = 1 = high
(00_scope R14). -/

namespace Sys2Proof

/-- One constructor per row of spec/opcode_table.json. -/
inductive Instr where
  /-- `initialize_state level_a, level_b` (40_init R100). -/
  | initializeState (levelA levelB : Bool)
  /-- `tick_a level` (41_edge_update R110). -/
  | tickA (level : Bool)
  /-- `tick_b level` (41_edge_update R111). -/
  | tickB (level : Bool)
  /-- `set_home` (42_home_read R140). -/
  | setHome
  /-- `get_position reset` (42_home_read R141). -/
  | getPosition (reset : Bool)
  /-- `pulses_missed` (42_home_read R143). -/
  | pulsesMissed
  deriving DecidableEq, Repr

end Sys2Proof
end

