-- ==== Sys2Proof/WellFormed.lean ====
section
/-! DEFINITION. Well-formedness. The operands of a command are single bits, so every term of `Instr` is well formed by its
type; what can be ill formed is a command WORD: an unassigned opcode (30_encoding R82) or a must-be-zero bit that is set
(30_encoding R83). -/

namespace Sys2Proof

/-- The opcode field is one of the six assigned opcodes; `0b000` and `0b111` are reserved (30_encoding R80, R82). -/
def Word.opcodeAssigned (w : Word) : Bool :=
  w.extractLsb 4 2 != 0b000#3 && w.extractLsb 4 2 != 0b111#3

/-- `cmd[1]` = 0, where the format asks for it: formats L and N (30_encoding R78, R79). -/
def Word.bitOneClear (w : Word) : Bool := w.getLsbD 1 == false

/-- `cmd[0]` = 0, where the format asks for it: format N (30_encoding R79). -/
def Word.bitZeroClear (w : Word) : Bool := w.getLsbD 0 == false

/-- Format L: `tick_a`, `tick_b`, `get_position` (30_encoding R78). -/
def Word.formatL (w : Word) : Bool :=
  w.extractLsb 4 2 == 0b010#3 || w.extractLsb 4 2 == 0b011#3 || w.extractLsb 4 2 == 0b101#3

/-- Format N: `set_home`, `pulses_missed` (30_encoding R79). -/
def Word.formatN (w : Word) : Bool :=
  w.extractLsb 4 2 == 0b100#3 || w.extractLsb 4 2 == 0b110#3

/-- A command word that is not reserved: the opcode is assigned and the must-be-zero bits of its format are zero
(30_encoding R82, R83). -/
def Word.wellFormed (w : Word) : Bool :=
  w.opcodeAssigned
    && (!w.formatL || w.bitOneClear)
    && (!w.formatN || (w.bitOneClear && w.bitZeroClear))

/-- Every term of `Instr` is well formed: no operand has a value its field cannot hold (30_encoding R81). -/
def Instr.wellFormed : Instr → Bool
  | .initializeState _ _ => true
  | .tickA _ => true
  | .tickB _ => true
  | .setHome => true
  | .getPosition _ => true
  | .pulsesMissed => true

end Sys2Proof
end

