-- ==== Sys2Proof/Decode.lean ====
section
/-! DEFINITION. The command decoder, total on the 32 words and rejecting by name, and the encoder (30_encoding R76 to R83,
R87 to R89). -/

namespace Sys2Proof

/-- Why a word is reserved. -/
inductive ReservedWhy where
  /-- Opcode `0b000` or `0b111` (30_encoding R82). -/
  | reservedOpcode
  /-- An assigned opcode with a must-be-zero bit set (30_encoding R83). -/
  | mustBeZero
  deriving DecidableEq, Repr

/-- The decoder's verdict: exactly one of the six commands, or `reserved` (30_encoding R89). -/
inductive Decoded where
  | command (i : Instr)
  | reserved (why : ReservedWhy)
  deriving DecidableEq, Repr

/-- `op = cmd[4:2]` (30_encoding R76). -/
def opField (w : Word) : BitVec 3 := w.extractLsb 4 2

/-- `cmd[1]`. -/
def argHigh (w : Word) : Bool := w.getLsbD 1

/-- `cmd[0]`. -/
def argLow (w : Word) : Bool := w.getLsbD 0

/-- Format I: two operand bits, `level_a` then `level_b` (30_encoding R77). -/
def decodeFormatI (make : Bool → Bool → Instr) (w : Word) : Decoded :=
  .command (make (argHigh w) (argLow w))

/-- Format L: `cmd[1]` must be zero, `cmd[0]` is the operand (30_encoding R78, R83). -/
def decodeFormatL (make : Bool → Instr) (w : Word) : Decoded :=
  if argHigh w then .reserved .mustBeZero else .command (make (argLow w))

/-- Format N: both argument bits must be zero (30_encoding R79, R83). -/
def decodeFormatN (i : Instr) (w : Word) : Decoded :=
  if argHigh w || argLow w then .reserved .mustBeZero else .command i

/-- The opcode map of 30_encoding R80. The last arm is `op` = `0b000` or `0b111` (R82). -/
def decode (w : Word) : Decoded :=
  match opField w with
  | 0b001#3 => decodeFormatI .initializeState w
  | 0b010#3 => decodeFormatL .tickA w
  | 0b011#3 => decodeFormatL .tickB w
  | 0b100#3 => decodeFormatN .setHome w
  | 0b101#3 => decodeFormatL .getPosition w
  | 0b110#3 => decodeFormatN .pulsesMissed w
  | _ => .reserved .reservedOpcode

/-- A word from its opcode and its two argument bits (30_encoding R76). -/
def packWord (op : BitVec 3) (hi lo : Bool) : Word := op ++ BitVec.ofBool hi ++ BitVec.ofBool lo

/-- The word of a command (30_encoding R77 to R80). -/
def encode : Instr → Word
  | .initializeState a b => packWord 0b001 a b
  | .tickA l => packWord 0b010 false l
  | .tickB l => packWord 0b011 false l
  | .setHome => packWord 0b100 false false
  | .getPosition r => packWord 0b101 false r
  | .pulsesMissed => packWord 0b110 false false

/-- The 5-bit command word that the number `w` writes, where it writes one: the command port has five wires, so a number
with a bit above bit 4 is no command word (30_encoding R76, R87; log 12). -/
def commandWord? (w : Nat) : Option Word :=
  if w < 32 then some (BitVec.ofNat 5 w) else none

/-- The command the decoder reads from the word numbered `w` of spec/opcode_table.json; `nbits` adds nothing, since a
command is one word of one length (30_encoding R87). -/
def decodeTableWord (_nbits w : Nat) : Option Instr :=
  match commandWord? w with
  | none => none
  | some word =>
    match decode word with
    | .command i => some i
    | .reserved _ => none

end Sys2Proof
end

