-- ==== Sys2Proof/Config.lean ====
section
/-! DEFINITION. What is fixed for one QDEC and is not state (10_state R27, R29): the legal values of `CPR`, the bounds of the
two counters, and the open parameter `RADIANS_FN`. -/

namespace Sys2Proof

/-- A legal `CPR`: the 32-bit unsigned static input `cpr_i` with a value from 1 to 2^32 - 1 (00_scope R8; 60_exceptions
R161: the model takes `CPR` with the proof that it is legal). -/
structure Cpr where
  val : BitVec 32
  legal : val ≠ 0
  deriving DecidableEq, Repr

/-- The largest `position`, 2^63 - 1 (00_scope R9). -/
def Config.positionMax : Int := 9223372036854775807

/-- The smallest `position`, -2^63 (00_scope R9). -/
def Config.positionMin : Int := -9223372036854775808

/-- The largest `missed_count`, 2^64 - 1 (00_scope R10). -/
def Config.missedMax : Nat := 18446744073709551615

/-- FREE VALUE (log 8): the floating-point value `RADIANS_FN(p, CPR)` for a non-zero `p`. It depends on its two arguments
alone and nothing else is known of it (42_home_read R148; D15 leaves format, rounding and constant open). -/
opaque Config.radiansFree : Data → BitVec 32 → Rat

end Sys2Proof
end

