-- ==== Sys2Proof/Machine/State.lean ====
section
/-! DEFINITION. The state of QDEC and of the contexts that drive it, as plain data, and the state after reset (10_state R20
to R37). -/

namespace Sys2Proof.Machine

/-- Why a step, or the construction, stops with no state after it. -/
inductive Fault where
  /-- Cause 0, ConfigurationError (60_exceptions R161): raised by `construct` alone, when `CPR` = 0; no step raises it.
  Safe: the spec says that no machine exists then. -/
  | configurationError
  deriving DecidableEq, Repr

/-- Why an instruction has no meaning in this model. -/
inductive Refusal where
  /-- An instruction the model gives no meaning to. Raised by nobody: every command has its meaning. Safe: it stops. -/
  | notModelled (mnemonic : String)
  deriving DecidableEq, Repr

/-- The fault causes 1 to 4, which a command raises and after which the machine goes on (60_exceptions R160, R166). -/
inductive Cause where
  | preconditionViolation
  | illegalCommand
  | positionOverflow
  | missedOverflow
  deriving DecidableEq, Repr

/-- The response status, five values; the codes `0b101` to `0b111` are never produced (30_encoding R85). -/
inductive RspStatus where
  | ok
  | precond
  | illegal
  | posOvf
  | missedOvf
  deriving DecidableEq, Repr

/-- The response of one executed command (30_encoding R84). -/
structure Response where
  status : RspStatus
  data : Data
  deriving DecidableEq, Repr

/-- The three requesting contexts (00_scope R18; 60_exceptions R174). -/
inductive Context where
  | channelA
  | channelB
  | reader
  deriving DecidableEq, Repr

/-- What one clock edge brings: the level of `rst`, and the context whose next word is presented on the command port
(none: `cmd_valid` = 0). DESIGN CHOICE (log 1): safe, the list of slots is arbitrary. -/
structure Slot where
  rst : Bool
  grant : Option Context
  deriving DecidableEq, Repr

/-- The whole state. The first four fields are QDEC's registers; `response` is what its response ports carry after the
last step; the last four fields are the environment's and no command changes them. -/
structure State where
  /-- `prior_state` (10_state R20), on `state_o`. -/
  priorState : EncoderState
  /-- `position`, two's complement (10_state R21). -/
  position : Data
  /-- `missed_count`, unsigned (10_state R22). -/
  missedCount : Data
  /-- STATUS (10_state R24), on `status_o`. -/
  status : BitVec 5
  /-- The response of the last step; `none` is `rsp_valid` = 0 (10_state R31). DESIGN CHOICE (log 5): safe. -/
  response : Option Response
  /-- Words the channel-A context has still to issue, first first (20_memory R57; log 1, 2). -/
  queueA : List Word
  /-- Words the channel-B context has still to issue (log 1, 2). -/
  queueB : List Word
  /-- Words the reader/control context has still to issue (log 1, 2). -/
  queueReader : List Word
  /-- The coming clock edges; the interleaving of the contexts is this list, whatever it is (60_exceptions R172; log 1). -/
  schedule : List Slot
  deriving DecidableEq, Repr

/-- Right after reset (10_state R33; 70_reset_and_hazards R191): all registers zero, no response. The environment's lists
are empty (DESIGN CHOICE, log 1). -/
def State.reset : State where
  priorState := 0
  position := 0
  missedCount := 0
  status := 0
  response := none
  queueA := []
  queueB := []
  queueReader := []
  schedule := []

end Sys2Proof.Machine
end

