-- ==== Sys2Proof/Machine/Flags.lean ====
section
/-! DEFINITION. STATUS, the response status codes, and the two overflow conditions (10_state R24 to R26; 30_encoding R85;
41_edge_update R119, R120). -/

namespace Sys2Proof.Machine

/-- The STATUS bit of a fault cause, which is also its number (10_state R24; 60_exceptions R160). -/
def Cause.bit : Cause → Nat
  | .preconditionViolation => 1
  | .illegalCommand => 2
  | .positionOverflow => 3
  | .missedOverflow => 4

/-- The response status that reports a cause (60_exceptions R160). -/
def Cause.rspStatus : Cause → RspStatus
  | .preconditionViolation => .precond
  | .illegalCommand => .illegal
  | .positionOverflow => .posOvf
  | .missedOverflow => .missedOvf

/-- The three wires of `rsp_status` (30_encoding R85). -/
def RspStatus.code : RspStatus → BitVec 3
  | .ok => 0b000
  | .precond => 0b001
  | .illegal => 0b010
  | .posOvf => 0b011
  | .missedOvf => 0b100

/-- STATUS with bit `n` set, every other bit kept. -/
def setStatusBit (n : Nat) (status : BitVec 5) : BitVec 5 := status ||| BitVec.twoPow 5 n

/-- `STATUS.INIT` (10_state R25). -/
def State.initialized (s : State) : Bool := s.status.getLsbD 0

/-- The sticky bit of a cause (10_state R26). -/
def State.faulted (c : Cause) (s : State) : Bool := s.status.getLsbD c.bit

/-- The exact sum is outside the range of `position` (41_edge_update R114, R119). -/
def positionOverflows (sum : Int) : Bool :=
  decide (Config.positionMax < sum) || decide (sum < Config.positionMin)

/-- `missed_count` is at its bound (41_edge_update R114, R120). -/
def missedOverflows (count : Data) : Bool := count.toNat == Config.missedMax

end Sys2Proof.Machine
end

