-- ==== Sys2Proof/Machine/Operands.lean ====
section
/-! DEFINITION. How the operands of the commands become Encoder States (30_encoding R70, R81). -/

namespace Sys2Proof.Machine

/-- `(level_a << 1) | level_b` (30_encoding R70). -/
def encoderState (levelA levelB : Bool) : EncoderState := BitVec.ofBool levelA ++ BitVec.ofBool levelB

/-- The level of channel A in an Encoder State: bit 1. -/
def levelA (s : EncoderState) : Bool := s.getLsbD 1

/-- The level of channel B in an Encoder State: bit 0. -/
def levelB (s : EncoderState) : Bool := s.getLsbD 0

/-- The candidate state of `tick_a`: bit 1 replaced, bit 0 carried over (41_edge_update R110). -/
def candidateA (level : Bool) (prior : EncoderState) : EncoderState := encoderState level (levelB prior)

/-- The candidate state of `tick_b`: bit 0 replaced, bit 1 carried over (41_edge_update R111). -/
def candidateB (level : Bool) (prior : EncoderState) : EncoderState := encoderState (levelA prior) level

end Sys2Proof.Machine
end

