-- ==== Sys2Proof/Machine/Rom.lean ====
section
/-! DEFINITION. The transition ROM, a constant and no part of the state (10_state R29; 20_memory R50 to R52; 30_encoding R72
to R75, R92). -/

namespace Sys2Proof.Machine

/-- The meaning of a cell (30_encoding R72, R73). -/
inductive Transition where
  | noChange
  | forward
  | backward
  | missed
  deriving DecidableEq, Repr

/-- The 16 cells in address order, as 30_encoding R74 prints them, four cells of one prior state to a line. -/
def romCells : Vector RomCell 16 := #v[
  0b00, 0b01, 0b11, 0b10,
  0b01, 0b00, 0b10, 0b11,
  0b11, 0b10, 0b00, 0b01,
  0b10, 0b11, 0b01, 0b00]

/-- `ROM[a]`: every 4-bit address is populated (20_memory R64). -/
def romRead (a : RomAddr) : RomCell := romCells.get a.toFin

/-- `prior_state ++ new_state` (20_memory R52). -/
def romAddress (prior new : EncoderState) : RomAddr := prior ++ new

/-- The cell codes (30_encoding R72). -/
def decodeCell (c : RomCell) : Transition :=
  if c = 0b00 then .noChange
  else if c = 0b01 then .forward
  else if c = 0b11 then .backward
  else .missed

/-- `T(p, n)` (30_encoding R73). -/
def transition (prior new : EncoderState) : Transition := decodeCell (romRead (romAddress prior new))

/-- The packed image of the ROM, cell `a` at bits `[2a+1 : 2a]` (30_encoding R92). -/
def romImage : BitVec 32 := 0x1E4BE1B4

end Sys2Proof.Machine
end

