-- ==== Sys2Proof/Machine/Ops.lean ====
section
/-! DEFINITION. The named operations every meaning is made of: responding, raising a fault, clearing the counters, the
internal Update, reset, and taking the next word from the environment. -/

namespace Sys2Proof.Machine

/-- `respond(status, data)` (00_scope R16). -/
def respond (status : RspStatus) (data : Data) (s : State) : State :=
  { s with response := some ⟨status, data⟩ }

/-- FAULT ENTRY, for every cause that leaves the machine running (60_exceptions R166): the cause's sticky bit is set, the
response carries its code with data 0, nothing is saved and control goes nowhere. There is no return from a fault (R167). -/
def raise (c : Cause) (s : State) : State :=
  respond c.rspStatus 0 { s with status := setStatusBit c.bit s.status }

/-- `STATUS.INIT <- 1` (10_state R25; 40_init R100). -/
def markInitialized (s : State) : State := { s with status := setStatusBit 0 s.status }

/-- `position <- p`. -/
def setPosition (p : Data) (s : State) : State := { s with position := p }

/-- `missed_count <- n`. -/
def setMissedCount (n : Data) (s : State) : State := { s with missedCount := n }

/-- Both counters to zero in one step (42_home_read R140, R141). -/
def clearCounters (s : State) : State := setMissedCount 0 (setPosition 0 s)

/-- The pulse accumulator: add a cell's signed value exactly, or hold at the bound and raise PositionOverflow
(41_edge_update R114, R116, R119). -/
def accumulate (d : Int) (s : State) : State :=
  if positionOverflows (s.position.toInt + d) then raise .positionOverflow s
  else respond .ok 0 (setPosition (BitVec.ofInt 64 (s.position.toInt + d)) s)

/-- The missed-edge detector: count one, or hold at the bound and raise MissedOverflow (41_edge_update R114, R117, R120). -/
def countMissed (s : State) : State :=
  if missedOverflows s.missedCount then raise .missedOverflow s
  else respond .ok 0 (setMissedCount (s.missedCount + 1) s)

/-- What one looked-up cell does to the counters (41_edge_update R114): the sentinel counts a miss, any other cell is
its own two's complement step. -/
def applyCell (cell : RomCell) (s : State) : State :=
  if decodeCell cell = .missed then countMissed s else accumulate cell.toInt s

/-- `prior_state <- new_state`, QDEC's only sequencing (10_state R23; 41_edge_update R118). -/
def advance (new : EncoderState) (s : State) : State := { s with priorState := new }

/-- `Update(new_state)` (41_edge_update R114, R118): look up with the old `prior_state`, count, and advance `prior_state`
whatever the outcome. -/
def update (new : EncoderState) (s : State) : State :=
  advance new (applyCell (romRead (romAddress s.priorState new)) s)

/-- The body of both edge commands (41_edge_update R110 to R112): rejected before initialization, else Update. -/
def edge (new : EncoderState) (s : State) : State :=
  if s.initialized then update new s else raise .preconditionViolation s

/-- Construct through `rst` (70_reset_and_hazards R190, R191): the registers as in `State.reset`, no response; what the
contexts have still to issue is not QDEC's and stays (log 4). -/
def performReset (s : State) : State :=
  { State.reset with
    queueA := s.queueA, queueB := s.queueB, queueReader := s.queueReader, schedule := s.schedule }

/-- A step with no command: nothing happens and `rsp_valid` = 0 (30_encoding R89; 10_state R31). -/
def idle (s : State) : State := { s with response := none }

/-- A reserved word raises IllegalCommand whatever the reason it is reserved (30_encoding R82, R83; 60_exceptions R163). -/
def rejectReserved (_why : ReservedWhy) (s : State) : State := raise .illegalCommand s

/-- The words a context has still to issue. -/
def State.queue (s : State) : Context → List Word
  | .channelA => s.queueA
  | .channelB => s.queueB
  | .reader => s.queueReader

/-- A context's first word leaves its queue. -/
def State.popQueue (s : State) : Context → State
  | .channelA => { s with queueA := s.queueA.tail }
  | .channelB => { s with queueB := s.queueB.tail }
  | .reader => { s with queueReader := s.queueReader.tail }

/-- The input ports at one clock edge (10_state R30): `rst`, and `cmd` where `cmd_valid` = 1. -/
structure PortInput where
  rst : Bool
  cmd : Option Word
  deriving DecidableEq, Repr

/-- What the next clock edge finds on the input ports. An exhausted schedule, an edge without a grant and a grant to a
context with nothing to issue all present no command (log 3). -/
def State.presented (s : State) : PortInput :=
  match s.schedule with
  | [] => ⟨false, none⟩
  | ⟨rst, none⟩ :: _ => ⟨rst, none⟩
  | ⟨rst, some c⟩ :: _ => ⟨rst, (s.queue c).head?⟩

/-- The state whose environment has delivered what `presented` shows: the slot is spent and the word has left its queue,
so that each word is delivered exactly once (20_memory R58; log 2). -/
def State.delivered (s : State) : State :=
  match s.schedule with
  | [] => s
  | ⟨_, none⟩ :: rest => { s with schedule := rest }
  | ⟨_, some c⟩ :: rest => { s.popQueue c with schedule := rest }

/-- A word put first in the reader/control context's queue and granted at the next clock edge, with `rst` low: the step
that follows runs it (log 13). -/
def State.present (s : State) (w : Word) : State :=
  { s with queueReader := w :: s.queueReader, schedule := ⟨false, some .reader⟩ :: s.schedule }

/-- An environment that brings exactly the given port inputs, one to each coming clock edge, its words issued by the
reader/control context (70_reset_and_hazards R208; log 13). -/
def State.load (inputs : List PortInput) (s : State) : State :=
  { s with
    queueReader := inputs.filterMap fun p => p.cmd
    schedule := inputs.map fun p => ⟨p.rst, if p.cmd.isSome then some .reader else none⟩ }

end Sys2Proof.Machine
end

