-- ==== Sys2Proof/Machine/Edge.lean ====
section
/-! DEFINITION. The edge family (41_edge_update): the level is trusted as given (R124). -/

namespace Sys2Proof.Machine

/-- `tick_a level` (41_edge_update R110, R112). -/
def execTickA (level : Bool) (s : State) : Host.Outcome State Fault Refusal :=
  .next (edge (candidateA level s.priorState) s)

/-- `tick_b level` (41_edge_update R111, R112). -/
def execTickB (level : Bool) (s : State) : Host.Outcome State Fault Refusal :=
  .next (edge (candidateB level s.priorState) s)

end Sys2Proof.Machine
end

