-- ==== Sys2Proof/Machine/HomeRead.lean ====
section
/-! DEFINITION. The home and read family (42_home_read): no precondition (R144), no STATUS bit and no `prior_state` touched. -/

namespace Sys2Proof.Machine

/-- `set_home` (42_home_read R140). -/
def execSetHome (s : State) : Host.Outcome State Fault Refusal :=
  .next (respond .ok 0 (clearCounters s))

/-- `get_position reset` (42_home_read R141): the response is the value before the step. -/
def execGetPosition (reset : Bool) (s : State) : Host.Outcome State Fault Refusal :=
  .next (respond .ok s.position (if reset then clearCounters s else s))

/-- `pulses_missed` (42_home_read R143). -/
def execPulsesMissed (s : State) : Host.Outcome State Fault Refusal :=
  .next (respond .ok s.missedCount s)

end Sys2Proof.Machine
end

