-- ==== Sys2Proof/Machine/Init.lean ====
section
/-! DEFINITION. The initialize family (40_init). -/

namespace Sys2Proof.Machine

/-- `initialize_state level_a, level_b` (40_init R100): unconditional, repeated or not (R101); the counters and the fault
bits are kept. -/
def execInitializeState (levelA levelB : Bool) (s : State) : Host.Outcome State Fault Refusal :=
  .next (respond .ok 0 (advance (encoderState levelA levelB) (markInitialized s)))

end Sys2Proof.Machine
end

