-- ==== Sys2Proof/Machine/Dispatch.lean ====
section
/-! DEFINITION. One arm per command. -/

namespace Sys2Proof.Machine

def exec (i : Instr) (s : State) : Host.Outcome State Fault Refusal :=
  match i with
  | .initializeState a b => Sys2Proof.Machine.execInitializeState a b s
  | .tickA level => Sys2Proof.Machine.execTickA level s
  | .tickB level => Sys2Proof.Machine.execTickB level s
  | .setHome => Sys2Proof.Machine.execSetHome s
  | .getPosition reset => Sys2Proof.Machine.execGetPosition reset s
  | .pulsesMissed => Sys2Proof.Machine.execPulsesMissed s

end Sys2Proof.Machine
end

