-- ==== Sys2Proof/Machine/Step.lean ====
section
/-! DEFINITION. One rising edge of `clk` (00_scope R17; 10_state R30). -/

namespace Sys2Proof.Machine

/-- One step: reset wins and drops the command (70_reset_and_hazards R192); otherwise the presented word, if any, is
decoded and executed in this step (70 R206), a reserved word raising IllegalCommand (60_exceptions R168: decode first). -/
def step (s : State) : Host.Outcome State Fault Refusal :=
  if s.presented.rst then .next (performReset s.delivered)
  else
    match s.presented.cmd with
    | none => .next (idle s.delivered)
    | some w =>
      match decode w with
      | .command i => exec i s.delivered
      | .reserved why => .next (rejectReserved why s.delivered)

/-- `s` with the command word numbered `w` presented at the next clock edge; a number that is no 5-bit word is not placed
(log 12, 13). -/
def State.withFetchWord (s : State) (_nbits w : Nat) : State :=
  match commandWord? w with
  | none => s
  | some word => s.present word

end Sys2Proof.Machine
end

