-- ==== Sys2Proof/Machine/Construct.lean ====
section
/-! DEFINITION. Construct with its parameter: one decoder is a legal `CPR` and a state (00_scope R8; 10_state R27; 60_exceptions
R161; 70_reset_and_hazards R190, R193). -/

namespace Sys2Proof.Machine

/-- One QDEC: `cpr_i`, which never changes while it runs, and the state. -/
structure Decoder where
  cpr : Cpr
  state : State
  deriving DecidableEq, Repr

/-- Construct: `CPR` = 0 is a ConfigurationError and no machine exists (60_exceptions R161); a legal `CPR` gives the reset
state (10_state R33). -/
def construct (cpr : BitVec 32) : Host.Outcome Decoder Fault Refusal :=
  if h : cpr = 0 then .fault .configurationError else .next ⟨⟨cpr, h⟩, State.reset⟩

/-- A step of a decoder is a step of its state: `CPR` affects no register and no register affects it (10_state R27). -/
def Decoder.step (d : Decoder) : Host.Outcome Decoder Fault Refusal :=
  match Sys2Proof.Machine.step d.state with
  | .next s => .next { d with state := s }
  | .fault f => .fault f
  | .refused r => .refused r

end Sys2Proof.Machine
end

