-- ==== Sys2Proof/Machine/Assembler.lean ====
section
/-! DEFINITION. The assembler syntax (30_encoding R90, R91): one command per line, operands `0`, `1`, `false` or `true`
separated by commas, `#` starts a comment, `reset` on a line of its own is the `rst` input. -/

namespace Sys2Proof.Machine

/-- The names of the commands and of reset: the mnemonic and its alias name the same command (30_encoding R91 a);
`construct` is the reset operation, written `reset` (R91 c). -/
inductive Mnemonic where
  | initializeState
  | tickA
  | tickB
  | setHome
  | getPosition
  | pulsesMissed
  | construct
  deriving DecidableEq, Repr

/-- The mnemonics of 30_encoding R90, the aliases of R91 (a) and `reset` of R91 (c). DESIGN CHOICE (log 17): `Construct` is
accepted as a second spelling of `reset`; R91 (c) says only that Construct is written `reset`, and R91 (a) does not list it. -/
def mnemonicTable : List (List Char × Mnemonic) :=
  [("initialize_state".toList, .initializeState), ("Initialize".toList, .initializeState),
   ("tick_a".toList, .tickA), ("OnEdgeA".toList, .tickA),
   ("tick_b".toList, .tickB), ("OnEdgeB".toList, .tickB)]
  ++ [("set_home".toList, .setHome), ("SetHome".toList, .setHome),
   ("get_position".toList, .getPosition), ("GetPosition".toList, .getPosition),
   ("pulses_missed".toList, .pulsesMissed), ("GetMissedCount".toList, .pulsesMissed),
   ("reset".toList, .construct), ("Construct".toList, .construct)]

/-- An operand: `0` or `false`, `1` or `true` (30_encoding R90). -/
def operandTable : List (List Char × Bool) :=
  [("0".toList, false), ("false".toList, false), ("1".toList, true), ("true".toList, true)]

/-- A token of a line: a run of characters other than blanks and commas, or a comma. -/
inductive Token where
  | chars (cs : List Char)
  | comma
  deriving DecidableEq, Repr

/-- Put a character at the front of the word that the tokens begin with, if they do. -/
def Token.push (c : Char) (glued : Bool) (rest : List Token) : List Token :=
  match glued, rest with
  | true, .chars cs :: more => .chars (c :: cs) :: more
  | _, _ => .chars [c] :: rest

/-- Whether a character belongs to a word; a space or a tab separates words. DESIGN CHOICE (log 16). -/
def isWordChar (c : Char) : Bool := c != ' ' && c != '\t' && c != ',' && c != '#'

/-- The tokens of a line, up to its comment (30_encoding R90). -/
def tokens : List Char → List Token
  | [] => []
  | c :: cs =>
    if c = '#' then []
    else if c = ',' then .comma :: tokens cs
    else if isWordChar c then Token.push c (cs.head?.any isWordChar) (tokens cs)
    else tokens cs

/-- The operands after the mnemonic, separated by commas. -/
def operands : List Token → Option (List Bool)
  | [] => some []
  | [.chars a] => (operandTable.lookup a).map fun x => [x]
  | [.chars a, .comma, .chars b] =>
    match operandTable.lookup a, operandTable.lookup b with
    | some x, some y => some [x, y]
    | _, _ => none
  | _ => none

/-- A line of a program: the reset operation or a command (30_encoding R90), or nothing but blanks and a comment (DESIGN
CHOICE, log 18). -/
inductive Line where
  | blank
  | reset
  | command (i : Instr)
  deriving DecidableEq, Repr

/-- A name with its operands (30_encoding R90); `get_position` alone is `get_position 0` (R91 b). -/
def assemble : Mnemonic → List Bool → Option Line
  | .initializeState, [a, b] => some (.command (.initializeState a b))
  | .tickA, [l] => some (.command (.tickA l))
  | .tickB, [l] => some (.command (.tickB l))
  | .setHome, [] => some (.command .setHome)
  | .getPosition, [] => some (.command (.getPosition false))
  | .getPosition, [r] => some (.command (.getPosition r))
  | .pulsesMissed, [] => some (.command .pulsesMissed)
  | .construct, [] => some .reset
  | _, _ => none

/-- One line of source text; `none` is a line the syntax does not allow. DESIGN CHOICE (log 18): a line with no token, blank
or all comment, is allowed; 30_encoding R90 says that `#` starts a comment and not whether a line may hold nothing else. -/
def parseLine (text : List Char) : Option Line :=
  match tokens text with
  | [] => some .blank
  | .chars name :: rest =>
    match mnemonicTable.lookup name, operands rest with
    | some m, some bits => assemble m bits
    | _, _ => none
  | .comma :: _ => none

/-- A one-bit operand as text (30_encoding R90). -/
def bitText (b : Bool) : List Char := if b then ['1'] else ['0']

/-- A command as a line of text (30_encoding R90). -/
def render : Instr → List Char
  | .initializeState a b => "initialize_state ".toList ++ bitText a ++ [',', ' '] ++ bitText b
  | .tickA l => "tick_a ".toList ++ bitText l
  | .tickB l => "tick_b ".toList ++ bitText l
  | .setHome => "set_home".toList
  | .getPosition r => "get_position ".toList ++ bitText r
  | .pulsesMissed => "pulses_missed".toList

/-- What a line puts on the input ports at one clock edge; a command and the reset operation take one edge each
(30_encoding R90, R91 c). DESIGN CHOICE (log 18): a blank or comment-only line takes none. -/
def Line.portInput : Line → Option PortInput
  | .blank => none
  | .reset => some ⟨true, none⟩
  | .command i => some ⟨false, some (encode i)⟩

/-- A program: its lines together with the `CPR` of the decoder it runs on (30_encoding R90). -/
structure Program where
  cpr : Cpr
  lines : List Line
  deriving DecidableEq, Repr

/-- A program from its source lines; `none` if a line is not in the syntax. -/
def parseProgram (cpr : Cpr) (text : List (List Char)) : Option Program :=
  (text.mapM parseLine).map fun lines => ⟨cpr, lines⟩

/-- The decoder in the reset state, with the program's lines as the coming clock edges (70_reset_and_hazards R208). -/
def Program.start (p : Program) : Decoder :=
  ⟨p.cpr, State.reset.load (p.lines.filterMap Line.portInput)⟩

end Sys2Proof.Machine
end

