-- ==== Sys2Proof/Machine/Ports.lean ====
section
/-! DEFINITION. The output ports between two steps (10_state R31; 30_encoding R84 to R86). -/

namespace Sys2Proof.Machine

/-- The output ports. `rspStatus` and `rspData` carry a value exactly when `rspValid` = 1 (10_state R31; log 5). -/
structure OutputPorts where
  cmdReady : Bool
  rspValid : Bool
  rspStatus : Option (BitVec 3)
  rspData : Option Data
  statusO : BitVec 5
  stateO : BitVec 2
  deriving DecidableEq, Repr

/-- What the output ports show: `cmd_ready` is constant 1, `rsp_*` is the last step's response, `status_o` and `state_o` are
the registers. -/
def State.outputs (s : State) : OutputPorts where
  cmdReady := true
  rspValid := s.response.isSome
  rspStatus := s.response.map fun r => r.status.code
  rspData := s.response.map fun r => r.data
  statusO := s.status
  stateO := s.priorState

end Sys2Proof.Machine
end

