-- ==== Sys2Proof/Machine/Radians.lean ====
section
/-! DEFINITION. From pulses to radians, outside the integer datapath: applied by whoever reads a `get_position` response
(42_home_read R146 to R148). -/

namespace Sys2Proof.Machine

/-- `x` is the radians value of the pulse count `p`: `p / CPR * 2π` over the real numbers, a real division (42_home_read
R146, R147). -/
def IsRadians (p : Int) (cpr : Cpr) (x : ℝ) : Prop :=
  x = (p : ℝ) / (cpr.val.toNat : ℝ) * (2 * Real.pi)

/-- `RADIANS_FN(p, CPR)`, total on the 64-bit `p` and the legal `CPR`: zero at `p` = 0, elsewhere a free value that depends
on the two arguments alone (42_home_read R148; log 8). -/
def radiansFn (p : Data) (cpr : Cpr) : Rat :=
  if p = 0 then 0 else Config.radiansFree p cpr.val

/-- What the reader gets by applying `RADIANS_FN` to the last response, which it knows to be of its `get_position`
(42_home_read R141, R148). -/
def Decoder.radians (d : Decoder) : Option Rat :=
  d.state.response.map fun r => radiansFn r.data d.cpr

end Sys2Proof.Machine
end

