-- ==== Sys2Proof/Safety.lean ====
section
/-! DEFINITION. The vocabulary of claims: fault-free states, the invariants of 10_state R32 and 41_edge_update R122, what the
contexts have still to issue, and what a run is (70_reset_and_hazards R208). -/

namespace Sys2Proof.Safety

open Sys2Proof.Machine

/-- No fault bit is set: `STATUS[4:1]` = 0 (60_exceptions R167). -/
def FaultFree (s : State) : Prop := s.status.extractLsb 4 1 = 0#4

/-- 10_state R32, the clause the widths do not give by themselves: before the first `initialize_state` every register
is zero. -/
def ZeroUntilInitialized (s : State) : Prop :=
  s.initialized = false → s.priorState = 0 ∧ s.position = 0 ∧ s.missedCount = 0

/-- 41_edge_update R122: nothing has been counted as missed, and MissedOverflow has not occurred. -/
def NothingMissed (s : State) : Prop :=
  s.missedCount = 0 ∧ s.faulted .missedOverflow = false

/-- The environment part of two states is the same. -/
def SameEnvironment (s t : State) : Prop :=
  t.queueA = s.queueA ∧ t.queueB = s.queueB ∧ t.queueReader = s.queueReader ∧ t.schedule = s.schedule

/-- The two states agree on everything but the fault bits (10_state R26). -/
def AgreeUpToFaultBits (s t : State) : Prop :=
  t.priorState = s.priorState ∧ t.position = s.position ∧ t.missedCount = s.missedCount ∧
    t.initialized = s.initialized ∧ t.response = s.response ∧ SameEnvironment s t

/-- The step relation with the interleaving left open (60_exceptions R172): whatever the next clock edge brings, from any
context or with `rst`, `s` may go to what it leaves. -/
def CanStep (s t : State) : Prop :=
  ∃ slot : Slot, step { s with schedule := [slot] } = .next t

/-- The level a word reports for channel A, where it is a `tick_a`. -/
def tickLevelA (w : Word) : Option Bool :=
  match decode w with
  | .command (.tickA l) => some l
  | _ => none

/-- The level a word reports for channel B, where it is a `tick_b`. -/
def tickLevelB (w : Word) : Option Bool :=
  match decode w with
  | .command (.tickB l) => some l
  | _ => none

/-- How many of a channel's coming ticks report a level other than the one stored before them: the state-changing ticks
of 41_edge_update R123. -/
def changes (tickLevel : Word → Option Bool) : Bool → List Word → Int
  | _, [] => 0
  | stored, w :: rest =>
    match tickLevel w with
    | some l => (if l = stored then 0 else 1) + changes tickLevel l rest
    | none => changes tickLevel stored rest

/-- A word of the reader that clears nothing: `get_position 0` or `pulses_missed`. -/
def readsOnly (w : Word) : Bool :=
  decode w == .command (.getPosition false) || decode w == .command .pulsesMissed

/-- Monitoring with conforming contexts and no reset ahead (70_reset_and_hazards R196 to R200): initialized, context A issues
`tick_a` alone, context B `tick_b` alone, and the reader only reads. -/
def Monitoring (s : State) : Prop :=
  s.initialized = true ∧
    (∀ w ∈ s.queueA, (tickLevelA w).isSome) ∧
    (∀ w ∈ s.queueB, (tickLevelB w).isSome) ∧
    (∀ w ∈ s.queueReader, readsOnly w = true) ∧
    (∀ slot ∈ s.schedule, slot.rst = false)

/-- Where `position` is going: its value, plus the coming state-changing ticks of channel B, minus those of channel A
(41_edge_update R123). -/
def expectedPosition (s : State) : Int :=
  s.position.toInt + changes tickLevelB (levelB s.priorState) s.queueB
    - changes tickLevelA (levelA s.priorState) s.queueA

/-- A run that collects its responses: those of `k` steps and the state after them (70_reset_and_hazards R208). -/
def responses : Nat → State → List Response × State
  | 0, s => ([], s)
  | k + 1, s =>
    match step s with
    | .next t => (t.response.toList ++ (responses k t).1, (responses k t).2)
    | .fault _ => ([], s)
    | .refused _ => ([], s)

/-- A state with a list of command words waiting to be issued, one to each of as many clock edges (70_reset_and_hazards
R208; log 13). -/
def loaded (words : List Word) (s : State) : State :=
  s.load (words.map fun w => ⟨false, some w⟩)

end Sys2Proof.Safety
end

