-- ==== Sys2Proof/Certificates/Slice0/Obligations.lean ====
section
/-! DEFINITION. The statements for the provers, each from the numbered rules of spec/. -/

open Sys2Proof Sys2Proof.Machine Sys2Proof.Safety

/-! ### Encodings -/

/-- 30_encoding R76 to R81, R89: the decoder reads a command from a word exactly when the word is that command's encoding,
so that no operand bit is dropped, no two commands share a word and every other word is reserved. -/
def Obligations.DecodeIffEncode : Prop :=
  ∀ (w : Word) (i : Instr), decode w = .command i ↔ encode i = w

/-- 30_encoding R80: the opcode map, all 32 words; and each command's match and mask. -/
def Obligations.OpcodeMap : Prop :=
  (decode 0x04 = .command (.initializeState false false) ∧ decode 0x05 = .command (.initializeState false true) ∧
    decode 0x06 = .command (.initializeState true false) ∧ decode 0x07 = .command (.initializeState true true) ∧
    decode 0x08 = .command (.tickA false) ∧ decode 0x09 = .command (.tickA true) ∧
    decode 0x0C = .command (.tickB false) ∧ decode 0x0D = .command (.tickB true) ∧
    decode 0x10 = .command .setHome ∧
    decode 0x14 = .command (.getPosition false) ∧ decode 0x15 = .command (.getPosition true) ∧
    decode 0x18 = .command .pulsesMissed) ∧
  (∀ w ∈ ([0x00, 0x01, 0x02, 0x03, 0x1C, 0x1D, 0x1E, 0x1F] : List Word), decode w = .reserved .reservedOpcode) ∧
  (∀ w ∈ ([0x0A, 0x0B, 0x0E, 0x0F, 0x11, 0x12, 0x13, 0x16, 0x17, 0x19, 0x1A, 0x1B] : List Word),
    decode w = .reserved .mustBeZero) ∧
  (∀ w : Word,
    ((∃ a b, decode w = .command (.initializeState a b)) ↔ w &&& 0x1C = 0x04) ∧
    ((∃ l, decode w = .command (.tickA l)) ↔ w &&& 0x1E = 0x08) ∧
    ((∃ l, decode w = .command (.tickB l)) ↔ w &&& 0x1E = 0x0C) ∧
    (decode w = .command .setHome ↔ w &&& 0x1F = 0x10) ∧
    ((∃ r, decode w = .command (.getPosition r)) ↔ w &&& 0x1E = 0x14) ∧
    (decode w = .command .pulsesMissed ↔ w &&& 0x1F = 0x18))

/-- 30_encoding R82, R83: a word is reserved exactly when it is not well formed, and the decoder names the reason. -/
def Obligations.ReservedWords : Prop :=
  ∀ w : Word,
    (decode w = .reserved .reservedOpcode ↔ w.extractLsb 4 2 = 0b000#3 ∨ w.extractLsb 4 2 = 0b111#3) ∧
    ((∃ why, decode w = .reserved why) ↔ w.wellFormed = false)

/-- 30_encoding R90: the text of a command reads back as that command (the treatment of blanks is the model's choice, log 16). -/
def Obligations.AssemblerReadsCommands : Prop :=
  ∀ i : Instr, parseLine (render i) = some (.command i)

/-! ### The transition ROM -/

/-- 30_encoding R72: the four cell codes; the step cells are their own two's complement. -/
def Obligations.CellCodes : Prop :=
  decodeCell 0b00 = .noChange ∧ decodeCell 0b01 = .forward ∧ decodeCell 0b11 = .backward ∧ decodeCell 0b10 = .missed ∧
    (0b00#2).toInt = 0 ∧ (0b01#2).toInt = 1 ∧ (0b11#2).toInt = -1

/-- 30_encoding R74: the table, row = prior state, column = new state. -/
def Obligations.RomContent : Prop :=
  (transition 0b00 0b00 = .noChange ∧ transition 0b00 0b01 = .forward ∧
    transition 0b00 0b10 = .backward ∧ transition 0b00 0b11 = .missed) ∧
  (transition 0b01 0b00 = .forward ∧ transition 0b01 0b01 = .noChange ∧
    transition 0b01 0b10 = .missed ∧ transition 0b01 0b11 = .backward) ∧
  (transition 0b10 0b00 = .backward ∧ transition 0b10 0b01 = .missed ∧
    transition 0b10 0b10 = .noChange ∧ transition 0b10 0b11 = .forward) ∧
  (transition 0b11 0b00 = .missed ∧ transition 0b11 0b01 = .backward ∧
    transition 0b11 0b10 = .forward ∧ transition 0b11 0b11 = .noChange)

/-- 30_encoding R75: (a) diagonal, (b) adjacent, (c) anti-diagonal, (d) symmetry, (e) which channel gives which sign. -/
def Obligations.RomStructure : Prop :=
  (∀ p, transition p p = .noChange) ∧
  (∀ p n, (n = p ^^^ 0b01 ∨ n = p ^^^ 0b10) → transition p n = .forward ∨ transition p n = .backward) ∧
  (∀ p, transition p (p ^^^ 0b11) = .missed) ∧
  (∀ p n, transition p n = transition n p) ∧
  (∀ p, transition p (p ^^^ 0b10) = .backward ∧ transition p (p ^^^ 0b01) = .forward)

/-- 30_encoding R92: the packed image and the cells agree. -/
def Obligations.RomImage : Prop :=
  romImage = 0x1E4BE1B4 ∧ ∀ a : RomAddr, romRead a = (romImage >>> (2 * a.toNat)).setWidth 2

/-! ### Update, at the level of (prior, new) pairs -/

/-- 41_edge_update R116, R118, R119; 60_exceptions R164: an outcome other than MISSED whose exact sum is in range is added to
`position`; a step across either bound is not applied and sets POS_OVF; `prior_state` becomes the new state in both cases,
and nothing else changes but the response. -/
def Obligations.PositionArithmetic : Prop :=
  ∀ (s : State) (n : EncoderState),
    (∀ d : Int, (d = 0 ∧ transition s.priorState n = .noChange ∨ d = 1 ∧ transition s.priorState n = .forward ∨
        d = -1 ∧ transition s.priorState n = .backward) →
      -2 ^ 63 ≤ s.position.toInt + d → s.position.toInt + d ≤ 2 ^ 63 - 1 →
      (update n s).position.toInt = s.position.toInt + d ∧
        update n s = { s with priorState := n, position := (update n s).position, response := some ⟨.ok, 0⟩ }) ∧
    ((s.position.toInt = 2 ^ 63 - 1 ∧ transition s.priorState n = .forward ∨
        s.position.toInt = -2 ^ 63 ∧ transition s.priorState n = .backward) →
      update n s =
        { s with priorState := n, status := s.status ||| 0b01000, response := some ⟨.posOvf, 0⟩ })

/-- 41_edge_update R117, R118, R120: when both bits differ, one more is missed; at the bound of `missed_count` it holds and
MISSED_OVF is set; in both cases `position` is unchanged and `prior_state` is the new state. -/
def Obligations.MissedArithmetic : Prop :=
  ∀ s : State, ∃ t, update (s.priorState ^^^ 0b11) s = t ∧
    (s.missedCount.toNat < 2 ^ 64 - 1 →
      t.missedCount.toNat = s.missedCount.toNat + 1 ∧
      t = { s with
        priorState := s.priorState ^^^ 0b11
        missedCount := t.missedCount
        response := some ⟨.ok, 0⟩ }) ∧
    (s.missedCount.toNat = 2 ^ 64 - 1 →
      t = { s with
        priorState := s.priorState ^^^ 0b11
        status := s.status ||| 0b10000
        response := some ⟨.missedOvf, 0⟩ })

/-! ### The commands -/

/-- 40_init R100, R101: `initialize_state` (words `0x04` to `0x07`) completes from every state, initialized or not, with
`prior_state` the two levels and `INIT` = 1; the counters, the fault bits and the environment are unchanged. -/
def Obligations.InitializeStateResult : Prop :=
  ∀ (a b : Bool) (s : State), ∃ t, exec (.initializeState a b) s = .next t ∧
    t.priorState = BitVec.ofBool a ++ BitVec.ofBool b ∧ t.initialized = true ∧
    (∀ c, t.faulted c = s.faulted c) ∧
    t.position = s.position ∧ t.missedCount = s.missedCount ∧ t.response = some ⟨.ok, 0⟩ ∧ SameEnvironment s t ∧
    decode (0b001#3 ++ (BitVec.ofBool a ++ BitVec.ofBool b)) = .command (.initializeState a b)

/-- 41_edge_update R110, R116, R123, R125: an accepted `tick_a`. A level equal to the stored bit changes nothing; another one
replaces bit 1 of `prior_state` and takes 1 from `position`, whatever the B bit is, unless `position` is at its lower bound. -/
def Obligations.TickAResult : Prop :=
  ∀ (l : Bool) (s : State), s.initialized = true → (l = levelA s.priorState ∨ s.position.toInt ≠ -2 ^ 63) →
    ∃ t, exec (.tickA l) s = .next t ∧
      t.priorState = BitVec.ofBool l ++ s.priorState.extractLsb 0 0 ∧
      t.position.toInt = s.position.toInt - (if l = levelA s.priorState then 0 else 1) ∧
      t.missedCount = s.missedCount ∧ t.status = s.status ∧ t.response = some ⟨.ok, 0⟩ ∧ SameEnvironment s t

/-- 41_edge_update R111, R116, R123, R125: an accepted `tick_b`. A level equal to the stored bit changes nothing; another one
replaces bit 0 of `prior_state` and adds 1 to `position`, whatever the A bit is, unless `position` is at its upper bound. -/
def Obligations.TickBResult : Prop :=
  ∀ (l : Bool) (s : State), s.initialized = true → (l = levelB s.priorState ∨ s.position.toInt ≠ 2 ^ 63 - 1) →
    ∃ t, exec (.tickB l) s = .next t ∧
      t.priorState = s.priorState.extractLsb 1 1 ++ BitVec.ofBool l ∧
      t.position.toInt = s.position.toInt + (if l = levelB s.priorState then 0 else 1) ∧
      t.missedCount = s.missedCount ∧ t.status = s.status ∧ t.response = some ⟨.ok, 0⟩ ∧ SameEnvironment s t

/-- 41_edge_update R126: the sixteen accepted ticks, while no bound is reached. A row is prior state, command word, new
state, ROM address, step. -/
def Obligations.TickTable : Prop :=
  ∀ row ∈ ([(0b00, 0x08, 0b00, 0, 0), (0b00, 0x09, 0b10, 2, -1), (0b00, 0x0C, 0b00, 0, 0), (0b00, 0x0D, 0b01, 1, 1),
      (0b01, 0x08, 0b01, 5, 0), (0b01, 0x09, 0b11, 7, -1), (0b01, 0x0C, 0b00, 4, 1), (0b01, 0x0D, 0b01, 5, 0),
      (0b10, 0x08, 0b00, 8, -1), (0b10, 0x09, 0b10, 10, 0), (0b10, 0x0C, 0b10, 10, 0), (0b10, 0x0D, 0b11, 11, 1),
      (0b11, 0x08, 0b01, 13, -1), (0b11, 0x09, 0b11, 15, 0), (0b11, 0x0C, 0b10, 14, 1), (0b11, 0x0D, 0b11, 15, 0)] :
      List (EncoderState × Word × EncoderState × RomAddr × Int)),
    ∀ s : State, s.priorState = row.1 → s.initialized = true →
      -2 ^ 63 < s.position.toInt → s.position.toInt < 2 ^ 63 - 1 →
      ∃ i t, decode row.2.1 = .command i ∧ exec i s = .next t ∧
        romAddress row.1 row.2.2.1 = row.2.2.2.1 ∧
        t = { s with priorState := row.2.2.1, position := t.position, response := some ⟨.ok, 0⟩ } ∧
        t.position.toInt = s.position.toInt + row.2.2.2.2

/-- 41_edge_update R112; 60_exceptions R162: a tick with `INIT` = 0 sets PRECOND, responds (`PRECOND`, 0) and changes nothing
else. -/
def Obligations.TickBeforeInitialize : Prop :=
  ∀ (l : Bool) (s : State), s.initialized = false →
    exec (.tickA l) s = .next { s with status := s.status ||| 0b00010, response := some ⟨.precond, 0⟩ } ∧
    exec (.tickB l) s = .next { s with status := s.status ||| 0b00010, response := some ⟨.precond, 0⟩ }

/-- 41_edge_update R119; 60_exceptions R164, for the two commands: a state-changing tick at the bound it would cross. -/
def Obligations.TickAtBound : Prop :=
  ∀ (l : Bool) (s : State), s.initialized = true →
    (l ≠ levelA s.priorState → s.position.toInt = -2 ^ 63 → exec (.tickA l) s =
      .next { s with
        priorState := BitVec.ofBool l ++ s.priorState.extractLsb 0 0
        status := s.status ||| 0b01000
        response := some ⟨.posOvf, 0⟩ }) ∧
    (l ≠ levelB s.priorState → s.position.toInt = 2 ^ 63 - 1 → exec (.tickB l) s =
      .next { s with
        priorState := s.priorState.extractLsb 1 1 ++ BitVec.ofBool l
        status := s.status ||| 0b01000
        response := some ⟨.posOvf, 0⟩ })

/-- 41_edge_update R116; 70_reset_and_hazards R198: the same tick issued again right after an accepted one lands on the
diagonal: it completes, responds `OK` and changes no register, at a bound of `position` too. -/
def Obligations.RepeatedTickIgnored : Prop :=
  ∀ (l : Bool) (s : State), s.initialized = true →
    (∃ t, exec (.tickA l) s = .next t ∧ exec (.tickA l) t = .next { t with response := some ⟨.ok, 0⟩ }) ∧
    (∃ t, exec (.tickB l) s = .next t ∧ exec (.tickB l) t = .next { t with response := some ⟨.ok, 0⟩ })

/-- 41_edge_update R113: the candidate state of a tick differs from the prior state in its own channel's bit at most, so a
tick reaches no anti-diagonal cell. -/
def Obligations.TicksNeverMiss : Prop :=
  ∀ (l : Bool) (p : EncoderState),
    (candidateA l p = p ∨ candidateA l p = p ^^^ 0b10) ∧ (candidateB l p = p ∨ candidateB l p = p ^^^ 0b01) ∧
    transition p (candidateA l p) ≠ .missed ∧ transition p (candidateB l p) ≠ .missed ∧
    romAddress p (candidateA l p) ∈ ([0, 1, 2, 4, 5, 7, 8, 10, 11, 13, 14, 15] : List RomAddr) ∧
    romAddress p (candidateB l p) ∈ ([0, 1, 2, 4, 5, 7, 8, 10, 11, 13, 14, 15] : List RomAddr)

/-- 42_home_read R140: `set_home` (word `0x10`) completes from every state, initialized or not, clears both counters in one
step and changes nothing else. -/
def Obligations.SetHomeResult : Prop :=
  decode 0x10 = .command .setHome ∧
  ∀ s : State, exec .setHome s =
    .next { s with position := 0, missedCount := 0, response := some ⟨.ok, 0⟩ }

/-- 42_home_read R141: `get_position` (words `0x14`, `0x15`) completes from every state and responds with `position` before
the step; with `reset` = 1 both counters are cleared in the same step, with `reset` = 0 nothing is written. -/
def Obligations.GetPositionResult : Prop :=
  decode 0x14 = .command (.getPosition false) ∧ decode 0x15 = .command (.getPosition true) ∧
  ∀ s : State,
    exec (.getPosition false) s = .next { s with response := some ⟨.ok, s.position⟩ } ∧
    exec (.getPosition true) s =
      .next { s with position := 0, missedCount := 0, response := some ⟨.ok, s.position⟩ }

/-- 42_home_read R143: `pulses_missed` (word `0x18`) completes from every state, responds with `missed_count` and changes
nothing else. -/
def Obligations.PulsesMissedResult : Prop :=
  decode 0x18 = .command .pulsesMissed ∧
  ∀ s : State, exec .pulsesMissed s = .next { s with response := some ⟨.ok, s.missedCount⟩ }

/-- 42_home_read R142, R145, with R148: `get_position 1` returns the value before the clear, and it and `set_home` leave the
same state but for the response; a `get_position` right after either one returns 0, which its reader turns into zero
radians, whatever `RADIANS_FN` is elsewhere. -/
def Obligations.HomeThenRead : Prop :=
  ∀ (s : State) (c : Cpr), ∃ t u,
    exec .setHome s = .next t ∧ exec (.getPosition true) s = .next u ∧
    u.response = some ⟨.ok, s.position⟩ ∧ t = { u with response := t.response } ∧
    (∃ v, exec (.getPosition false) t = .next v ∧ v.response = some ⟨.ok, 0⟩ ∧ Decoder.radians ⟨c, v⟩ = some 0) ∧
    (∃ v, exec (.getPosition false) u = .next v ∧ v.response = some ⟨.ok, 0⟩ ∧ Decoder.radians ⟨c, v⟩ = some 0)

/-- 10_state R37: the home and read commands neither read nor write `prior_state` and STATUS: with other values there, the
command does the same and leaves those values. -/
def Obligations.ReadersIgnoreFsm : Prop :=
  ∀ i ∈ ([.setHome, .getPosition false, .getPosition true, .pulsesMissed] : List Instr),
    ∀ (s : State) (p : EncoderState) (st : BitVec 5), ∃ t, exec i s = .next t ∧
      t.priorState = s.priorState ∧ t.status = s.status ∧
      exec i { s with priorState := p, status := st } = .next { t with priorState := p, status := st }

/-- 41_edge_update R121: a tick changes `position` by -1, 0 or +1 and never moves both counters. -/
def Obligations.TickBounds : Prop :=
  ∀ (l : Bool) (i : Instr), i = .tickA l ∨ i = .tickB l → ∀ s : State, ∃ t, exec i s = .next t ∧
    (t.position.toInt - s.position.toInt = -1 ∨ t.position.toInt - s.position.toInt = 0 ∨
      t.position.toInt - s.position.toInt = 1) ∧
    (t.missedCount.toNat = s.missedCount.toNat ∨ t.missedCount.toNat = s.missedCount.toNat + 1) ∧
    (t.position = s.position ∨ t.missedCount = s.missedCount)

/-! ### Faults -/

/-- 60_exceptions R166: fault entry. The cause's STATUS bit becomes 1, the response carries its code with data 0, the other
STATUS bits and all other state are as they were. -/
def Obligations.FaultEntry : Prop :=
  ∀ (c : Cause) (s : State),
    (raise c s).faulted c = true ∧ (raise c s).initialized = s.initialized ∧
    (∀ c', c' ≠ c → (raise c s).faulted c' = s.faulted c') ∧
    (raise c s).response = some ⟨c.rspStatus, 0⟩ ∧
    raise c s = { s with status := (raise c s).status, response := (raise c s).response }

/-- 30_encoding R85; 60_exceptions R160: the code of a fault is its STATUS bit number, `OK` is 0, and no other code exists. -/
def Obligations.StatusCodes : Prop :=
  RspStatus.ok.code = 0 ∧ (∀ c : Cause, c.rspStatus.code.toNat = c.bit) ∧
    Cause.preconditionViolation.bit = 1 ∧ Cause.illegalCommand.bit = 2 ∧
    Cause.positionOverflow.bit = 3 ∧ Cause.missedOverflow.bit = 4 ∧ ∀ r : RspStatus, r.code.toNat < 5

/-- 60_exceptions R168: one command raises at most one fault: either it responds `OK` and sets no fault bit, or it responds
with one cause and sets that cause's bit and no other. -/
def Obligations.OneFaultPerCommand : Prop :=
  ∀ (i : Instr) (s : State), ∃ t, exec i s = .next t ∧
    ((∃ d, t.response = some ⟨.ok, d⟩ ∧ ∀ c, t.faulted c = s.faulted c) ∨
      (∃ c, t.response = some ⟨c.rspStatus, 0⟩ ∧ t.faulted c = true ∧ ∀ c', c' ≠ c → t.faulted c' = s.faulted c'))

/-- 60_exceptions R163; 30_encoding R82, R83: a word with a reserved opcode or a must-be-zero bit set, on the port with `rst`
low, raises IllegalCommand whether or not the decoder is initialized, and changes nothing else. -/
def Obligations.ReservedWordStep : Prop :=
  ∀ (s : State) (w : Word), s.presented = ⟨false, some w⟩ → w.wellFormed = false →
    ∃ t, step s = .next t ∧ t.status = s.status ||| 0b00100 ∧ t.response = some ⟨.illegal, 0⟩ ∧
      t.priorState = s.priorState ∧ t.position = s.position ∧ t.missedCount = s.missedCount

/-- 10_state R26, R25; 60_exceptions R167: with `rst` low no step clears `INIT` or a fault bit, and a fault bit that is set
stays set. -/
def Obligations.StatusBitsSticky : Prop :=
  ∀ s : State, s.presented.rst = false → ∃ t, step s = .next t ∧ s.status &&& t.status = s.status

/-- 10_state R26: no command's behaviour depends on a fault bit. From two states that agree on all but the fault bits, a
command gives the same response and two states that agree on all but the fault bits. -/
def Obligations.FaultBitsNotRead : Prop :=
  ∀ (i : Instr) (s s' : State), AgreeUpToFaultBits s s' →
    ∃ t t', exec i s = .next t ∧ exec i s' = .next t' ∧ AgreeUpToFaultBits t t'

/-- 70_reset_and_hazards R196, R200: once initialized and with `rst` low, no step raises PreconditionViolation, and the
decoder stays initialized. -/
def Obligations.NoPreconditionFaultAfterInitialize : Prop :=
  ∀ s : State, s.initialized = true → s.presented.rst = false →
    ∃ t, step s = .next t ∧ t.initialized = true ∧
      t.faulted .preconditionViolation = s.faulted .preconditionViolation ∧
      ∀ d, t.response ≠ some ⟨.precond, d⟩

/-! ### Steps, reset, ports -/

/-- A step with `rst` low and a command word on the port is that command's meaning, on the state whose environment has
delivered the word (00_scope R17; 70_reset_and_hazards R206). -/
def Obligations.StepRunsDecodedCommand : Prop :=
  ∀ (s : State) (w : Word) (i : Instr),
    s.presented = ⟨false, some w⟩ → decode w = .command i → i.wellFormed = true →
    step s = exec i s.delivered ∧
      s.delivered = { s with
        queueA := s.delivered.queueA
        queueB := s.delivered.queueB
        queueReader := s.delivered.queueReader
        schedule := s.delivered.schedule }

/-- 20_memory R58, R57: a granted context's first word is the one presented, it leaves its queue whatever the step does, and
the other contexts keep theirs: each word is delivered once, in its context's own order. The lists are
the model's choice (log 1, 2), and so is that a word presented with `rst` is gone (log 4). -/
def Obligations.DeliveredExactlyOnce : Prop :=
  ∀ (s : State) (rst : Bool) (c : Context) (w : Word) (words : List Word) (slots : List Slot),
    s.schedule = ⟨rst, some c⟩ :: slots → s.queue c = w :: words →
    s.presented = ⟨rst, some w⟩ ∧
      ∃ t, step s = .next t ∧ t.queue c = words ∧ t.schedule = slots ∧ ∀ c', c' ≠ c → t.queue c' = s.queue c'

/-- 60_exceptions R172: nothing fixes the order between contexts: any context that has a command to issue may be the next
one, and the others then still have theirs (the lists and the schedule are the model's choice, log 1). -/
def Obligations.AnyContextMayGoNext : Prop :=
  ∀ (s : State) (c : Context) (w : Word) (words : List Word), s.queue c = w :: words →
    ∃ t, CanStep s t ∧ t.queue c = words ∧ (∀ c', c' ≠ c → t.queue c' = s.queue c') ∧
      ∀ i, decode w = .command i →
        ∃ u, SameEnvironment t u ∧ u.priorState = s.priorState ∧ u.position = s.position ∧
          u.missedCount = s.missedCount ∧ u.status = s.status ∧ exec i u = .next t

/-- 70_reset_and_hazards R191, R192: with `rst` high every register is zero after the step and there is no response,
whatever command is presented with it. -/
def Obligations.ResetStep : Prop :=
  ∀ s : State, s.presented.rst = true → ∃ t, step s = .next t ∧
    t.priorState = 0 ∧ t.position = 0 ∧ t.missedCount = 0 ∧ t.status = 0 ∧ t.response = none

/-- The model's choices (log 3, 4, 5): a step with `rst` high, or with no command, leaves what the contexts have still to issue
as delivery left it. -/
def Obligations.PendingWordsKept : Prop :=
  ∀ s : State, s.presented.rst = true ∨ s.presented.cmd = none →
    ∃ t, step s = .next t ∧ t.response = none ∧ SameEnvironment s.delivered t

/-- 30_encoding R89; 95_test_vectors V-X: with `rst` low and no command nothing happens, and `rsp_valid` is 0
(that it is held as an absent response is the model's choice, log 3, 5). -/
def Obligations.IdleStep : Prop :=
  ∀ s : State, s.presented = ⟨false, none⟩ → step s = .next { s.delivered with response := none }

/-- 60_exceptions R176: there is a step from every state, and it stops nowhere. -/
def Obligations.AlwaysAStep : Prop :=
  ∀ s : State, ∃ t, step s = .next t

/-- 10_state R33: the state after reset. -/
def Obligations.ResetValues : Prop :=
  State.reset.priorState = 0 ∧ State.reset.position = 0 ∧ State.reset.missedCount = 0 ∧
    State.reset.status = 0b00000 ∧ FaultFree State.reset ∧ State.reset.initialized = false

/-- 10_state R31; 30_encoding R86: the output ports. The response ports carry what the last step's command responded (kept in the
state by the model's choice, log 5). -/
def Obligations.OutputPortsShow : Prop :=
  ∀ s : State, s.outputs.cmdReady = true ∧ s.outputs.statusO = s.status ∧ s.outputs.stateO = s.priorState ∧
    (s.outputs.rspValid = false ↔ s.response = none) ∧
    ∀ r, s.response = some r →
      s.outputs.rspStatus = some r.status.code ∧ s.outputs.rspData = some r.data

/-- 60_exceptions R161; 10_state R33: `CPR` = 0 builds no machine; every other value builds one in the reset state (the form
of the pair and of the fault is the model's choice, log 7). -/
def Obligations.ConstructChecksCpr : Prop :=
  construct 0 = .fault .configurationError ∧
    ∀ c : BitVec 32, c ≠ 0 → ∃ d, construct c = .next d ∧ d.cpr.val = c ∧ d.state = State.reset

/-- 10_state R27: `CPR` affects no register and a step does not change it. -/
def Obligations.CprAffectsNoRegister : Prop :=
  ∀ (s : State) (c : Cpr), ∃ t, step s = .next t ∧ Decoder.step ⟨c, s⟩ = .next ⟨c, t⟩

/-! ### Radians -/

/-- 42_home_read R146, R147: the real-number formula, one value for each count and `CPR`, a real division; and the points the
spec names: 0, the negative of a count, one revolution, and 2 pulses of 4, which is π and no integer quotient. -/
def Obligations.RadiansFormula : Prop :=
  (∀ (c : Cpr) (p : Int) (x : ℝ), IsRadians p c x ↔ x * c.val.toNat = p * (2 * Real.pi)) ∧
  (∀ c : Cpr, IsRadians 0 c 0) ∧ (∀ (c : Cpr) (p : Int) (x : ℝ), IsRadians p c x → IsRadians (-p) c (-x)) ∧
    (∀ c : Cpr, IsRadians c.val.toNat c (2 * Real.pi)) ∧ ∀ c : Cpr, c.val = 4 → IsRadians 2 c Real.pi

/-! ### Invariants and whole-machine rules -/

/-- 10_state R32 at reset. -/
def Obligations.ZeroUntilInitializedAtReset : Prop := ZeroUntilInitialized State.reset

/-- 10_state R32: every step keeps "before the first `initialize_state` every register is zero". -/
def Obligations.ZeroUntilInitializedKept : Prop :=
  ∀ s t : State, ZeroUntilInitialized s → step s = .next t → ZeroUntilInitialized t

/-- 41_edge_update R122 at reset. -/
def Obligations.NothingMissedAtReset : Prop := NothingMissed State.reset

/-- 41_edge_update R122: every step keeps "nothing missed": no command from the port addresses a MISSED cell, and a
MissedOverflow is never reported. -/
def Obligations.NothingMissedKept : Prop :=
  ∀ s t : State, NothingMissed s → step s = .next t →
    NothingMissed t ∧ ∀ d, t.response ≠ some ⟨.missedOvf, d⟩

/-- 10_state R20, R21, R22, R35: who writes the registers. In a step that changes `prior_state` there was a reset, an
`initialize_state` or a tick; in one that changes `position`, a reset, a tick, `set_home` or `get_position 1`; in one that
changes `missed_count`, a reset, `set_home` or `get_position 1` (the tick that would change it is unreachable, 41_edge_update
R122); in one that changes STATUS, a reset, a reserved word, an `initialize_state` or a tick. -/
def Obligations.RegisterWriters : Prop :=
  ∀ s t : State, step s = .next t → s.presented.rst = false →
    (t.priorState ≠ s.priorState → ∃ w i, s.presented.cmd = some w ∧ decode w = .command i ∧
      ((∃ a b, i = .initializeState a b) ∨ (∃ l, i = .tickA l) ∨ ∃ l, i = .tickB l)) ∧
    (t.position ≠ s.position → ∃ w i, s.presented.cmd = some w ∧ decode w = .command i ∧
      ((∃ l, i = .tickA l) ∨ (∃ l, i = .tickB l) ∨ i = .setHome ∨ i = .getPosition true)) ∧
    (t.missedCount ≠ s.missedCount → ∃ w i, s.presented.cmd = some w ∧ decode w = .command i ∧
      (i = .setHome ∨ i = .getPosition true)) ∧
    (t.status ≠ s.status → ∃ w, s.presented.cmd = some w ∧
      ∀ i, decode w = .command i → (∃ a b, i = .initializeState a b) ∨ (∃ l, i = .tickA l) ∨ ∃ l, i = .tickB l)

/-- 30_encoding R84; 70_reset_and_hazards R206, R208: a list of command words, reserved ones among them, one to a clock edge,
gets exactly one response each (how the words are placed is the model's choice, log 13). -/
def Obligations.OneResponsePerCommand : Prop :=
  ∀ (words : List Word) (s : State), (responses words.length (loaded words s)).1.length = words.length

/-- 41_edge_update R123; 60_exceptions R172: one step of monitoring, whichever context it goes to, keeps where `position` is
going, while no overflow occurs. The premise Monitoring is the model's form of the adapter's duties (log 14). -/
def Obligations.ExpectedPositionKept : Prop :=
  ∀ s t : State, Monitoring s → step s = .next t → t.faulted .positionOverflow = false →
    Monitoring t ∧ expectedPosition t = expectedPosition s

/-- 41_edge_update R123; 60_exceptions R172: however the contexts interleave, once both edge contexts have issued all their
ticks and no overflow occurred, `position` is its start value plus the state-changing ticks of B minus those of A: no
update is lost or duplicated. The premise Monitoring is the model's form of the adapter's duties (log 14: each edge context
issues only its own ticks, the reader clears nothing, no reset is scheduled), and an interleaving is a value of the model's
lists and schedule (log 1, 2). -/
def Obligations.InterleavingResult : Prop :=
  ∀ (k : Nat) (s t : State), Monitoring s → core.run k s = .next t →
    t.faulted .positionOverflow = false → t.queueA = [] → t.queueB = [] →
    t.position.toInt = s.position.toInt + changes tickLevelB (levelB s.priorState) s.queueB
      - changes tickLevelA (levelA s.priorState) s.queueA

/-- 60_exceptions R170: two interleavings of the same ticks end at the same `position`, while no overflow occurs. The premise
Monitoring is the model's form of the adapter's duties (log 14: each edge context issues only its own ticks, the reader clears
nothing, no reset is scheduled), and an interleaving is a value of the model's schedule over its lists (log 1, 2). -/
def Obligations.InterleavingsAgree : Prop :=
  ∀ (k k' : Nat) (slots : List Slot) (s t t' : State),
    Monitoring s → (∀ slot ∈ slots, slot.rst = false) →
    core.run k s = .next t → core.run k' { s with schedule := slots } = .next t' →
    t.faulted .positionOverflow = false → t'.faulted .positionOverflow = false →
    t.queueA = [] → t.queueB = [] → t'.queueA = [] → t'.queueB = [] →
    t.position = t'.position
end

