-- ==== Sys2Proof/Laws/State.lean ====
section
/-! SUPPORT. Field lemmas of the shared operations, true by unfolding, so that no later proof unfolds a record update. -/

namespace Sys2Proof.Machine

variable (st : RspStatus) (d : Data) (c : Cause) (s : State)

@[simp] theorem respond_priorState : (respond st d s).priorState = s.priorState := rfl
@[simp] theorem respond_position : (respond st d s).position = s.position := rfl
@[simp] theorem respond_missedCount : (respond st d s).missedCount = s.missedCount := rfl
@[simp] theorem respond_status : (respond st d s).status = s.status := rfl
@[simp] theorem respond_response : (respond st d s).response = some ⟨st, d⟩ := rfl
@[simp] theorem respond_queueA : (respond st d s).queueA = s.queueA := rfl
@[simp] theorem respond_queueB : (respond st d s).queueB = s.queueB := rfl
@[simp] theorem respond_queueReader : (respond st d s).queueReader = s.queueReader := rfl
@[simp] theorem respond_schedule : (respond st d s).schedule = s.schedule := rfl

@[simp] theorem raise_priorState : (raise c s).priorState = s.priorState := rfl
@[simp] theorem raise_position : (raise c s).position = s.position := rfl
@[simp] theorem raise_missedCount : (raise c s).missedCount = s.missedCount := rfl
@[simp] theorem raise_status : (raise c s).status = setStatusBit c.bit s.status := rfl
@[simp] theorem raise_response : (raise c s).response = some ⟨c.rspStatus, 0⟩ := rfl
@[simp] theorem raise_queueA : (raise c s).queueA = s.queueA := rfl
@[simp] theorem raise_queueB : (raise c s).queueB = s.queueB := rfl
@[simp] theorem raise_queueReader : (raise c s).queueReader = s.queueReader := rfl
@[simp] theorem raise_schedule : (raise c s).schedule = s.schedule := rfl

@[simp] theorem setPosition_priorState (p : Data) : (setPosition p s).priorState = s.priorState := rfl
@[simp] theorem setPosition_position (p : Data) : (setPosition p s).position = p := rfl
@[simp] theorem setPosition_missedCount (p : Data) : (setPosition p s).missedCount = s.missedCount := rfl
@[simp] theorem setPosition_status (p : Data) : (setPosition p s).status = s.status := rfl
@[simp] theorem setPosition_response (p : Data) : (setPosition p s).response = s.response := rfl
@[simp] theorem setPosition_queueA (p : Data) : (setPosition p s).queueA = s.queueA := rfl
@[simp] theorem setPosition_queueB (p : Data) : (setPosition p s).queueB = s.queueB := rfl
@[simp] theorem setPosition_queueReader (p : Data) : (setPosition p s).queueReader = s.queueReader := rfl
@[simp] theorem setPosition_schedule (p : Data) : (setPosition p s).schedule = s.schedule := rfl

@[simp] theorem setMissedCount_priorState (n : Data) : (setMissedCount n s).priorState = s.priorState := rfl
@[simp] theorem setMissedCount_position (n : Data) : (setMissedCount n s).position = s.position := rfl
@[simp] theorem setMissedCount_missedCount (n : Data) : (setMissedCount n s).missedCount = n := rfl
@[simp] theorem setMissedCount_status (n : Data) : (setMissedCount n s).status = s.status := rfl
@[simp] theorem setMissedCount_response (n : Data) : (setMissedCount n s).response = s.response := rfl
@[simp] theorem setMissedCount_queueA (n : Data) : (setMissedCount n s).queueA = s.queueA := rfl
@[simp] theorem setMissedCount_queueB (n : Data) : (setMissedCount n s).queueB = s.queueB := rfl
@[simp] theorem setMissedCount_queueReader (n : Data) : (setMissedCount n s).queueReader = s.queueReader := rfl
@[simp] theorem setMissedCount_schedule (n : Data) : (setMissedCount n s).schedule = s.schedule := rfl

@[simp] theorem clearCounters_priorState : (clearCounters s).priorState = s.priorState := rfl
@[simp] theorem clearCounters_position : (clearCounters s).position = 0 := rfl
@[simp] theorem clearCounters_missedCount : (clearCounters s).missedCount = 0 := rfl
@[simp] theorem clearCounters_status : (clearCounters s).status = s.status := rfl
@[simp] theorem clearCounters_response : (clearCounters s).response = s.response := rfl
@[simp] theorem clearCounters_queueA : (clearCounters s).queueA = s.queueA := rfl
@[simp] theorem clearCounters_queueB : (clearCounters s).queueB = s.queueB := rfl
@[simp] theorem clearCounters_queueReader : (clearCounters s).queueReader = s.queueReader := rfl
@[simp] theorem clearCounters_schedule : (clearCounters s).schedule = s.schedule := rfl

@[simp] theorem advance_priorState (n : EncoderState) : (advance n s).priorState = n := rfl
@[simp] theorem advance_position (n : EncoderState) : (advance n s).position = s.position := rfl
@[simp] theorem advance_missedCount (n : EncoderState) : (advance n s).missedCount = s.missedCount := rfl
@[simp] theorem advance_status (n : EncoderState) : (advance n s).status = s.status := rfl
@[simp] theorem advance_response (n : EncoderState) : (advance n s).response = s.response := rfl
@[simp] theorem advance_queueA (n : EncoderState) : (advance n s).queueA = s.queueA := rfl
@[simp] theorem advance_queueB (n : EncoderState) : (advance n s).queueB = s.queueB := rfl
@[simp] theorem advance_queueReader (n : EncoderState) : (advance n s).queueReader = s.queueReader := rfl
@[simp] theorem advance_schedule (n : EncoderState) : (advance n s).schedule = s.schedule := rfl

@[simp] theorem markInitialized_priorState : (markInitialized s).priorState = s.priorState := rfl
@[simp] theorem markInitialized_position : (markInitialized s).position = s.position := rfl
@[simp] theorem markInitialized_missedCount : (markInitialized s).missedCount = s.missedCount := rfl
@[simp] theorem markInitialized_status : (markInitialized s).status = setStatusBit 0 s.status := rfl
@[simp] theorem markInitialized_response : (markInitialized s).response = s.response := rfl
@[simp] theorem markInitialized_queueA : (markInitialized s).queueA = s.queueA := rfl
@[simp] theorem markInitialized_queueB : (markInitialized s).queueB = s.queueB := rfl
@[simp] theorem markInitialized_queueReader : (markInitialized s).queueReader = s.queueReader := rfl
@[simp] theorem markInitialized_schedule : (markInitialized s).schedule = s.schedule := rfl

@[simp] theorem idle_priorState : (idle s).priorState = s.priorState := rfl
@[simp] theorem idle_position : (idle s).position = s.position := rfl
@[simp] theorem idle_missedCount : (idle s).missedCount = s.missedCount := rfl
@[simp] theorem idle_status : (idle s).status = s.status := rfl
@[simp] theorem idle_response : (idle s).response = none := rfl
@[simp] theorem idle_queueA : (idle s).queueA = s.queueA := rfl
@[simp] theorem idle_queueB : (idle s).queueB = s.queueB := rfl
@[simp] theorem idle_queueReader : (idle s).queueReader = s.queueReader := rfl
@[simp] theorem idle_schedule : (idle s).schedule = s.schedule := rfl

@[simp] theorem performReset_priorState : (performReset s).priorState = 0 := rfl
@[simp] theorem performReset_position : (performReset s).position = 0 := rfl
@[simp] theorem performReset_missedCount : (performReset s).missedCount = 0 := rfl
@[simp] theorem performReset_status : (performReset s).status = 0 := rfl
@[simp] theorem performReset_response : (performReset s).response = none := rfl
@[simp] theorem performReset_queueA : (performReset s).queueA = s.queueA := rfl
@[simp] theorem performReset_queueB : (performReset s).queueB = s.queueB := rfl
@[simp] theorem performReset_queueReader : (performReset s).queueReader = s.queueReader := rfl
@[simp] theorem performReset_schedule : (performReset s).schedule = s.schedule := rfl

end Sys2Proof.Machine
end

