-- ==== Sys2Proof/Laws/Ops.lean ====
section
/-! SUPPORT. One lemma per shared operation that says everything it can do, the looked-up cell of every tick, and the field
lemmas that follow. Cite these instead of unfolding the operations. -/

namespace Sys2Proof.Machine

/-! ### The STATUS bits -/

/-- Setting a STATUS bit clears none. -/
theorem and_setStatusBit (n : Nat) (st : BitVec 5) : st &&& setStatusBit n st = st := by
  ext i
  simp only [setStatusBit, BitVec.getElem_and, BitVec.getElem_or]
  cases st[i] <;> simp

@[simp] theorem markInitialized_initialized (s : State) : (markInitialized s).initialized = true := by
  simp [markInitialized, State.initialized, setStatusBit]

@[simp] theorem markInitialized_faulted (c : Cause) (s : State) :
    (markInitialized s).faulted c = s.faulted c := by
  cases c <;> simp [markInitialized, State.faulted, setStatusBit, Cause.bit]

@[simp] theorem respond_initialized (st : RspStatus) (d : Data) (s : State) :
    (respond st d s).initialized = s.initialized := rfl

@[simp] theorem respond_faulted (c : Cause) (st : RspStatus) (d : Data) (s : State) :
    (respond st d s).faulted c = s.faulted c := rfl

@[simp] theorem raise_initialized (c : Cause) (s : State) : (raise c s).initialized = s.initialized := by
  cases c <;> simp [raise, respond, State.initialized, setStatusBit, Cause.bit]

theorem raise_faulted (c c' : Cause) (s : State) :
    (raise c s).faulted c' = (s.faulted c' || decide (c' = c)) := by
  cases c <;> cases c' <;> simp [raise, respond, State.faulted, setStatusBit, Cause.bit]

@[simp] theorem clearCounters_initialized (s : State) : (clearCounters s).initialized = s.initialized := rfl

@[simp] theorem clearCounters_faulted (c : Cause) (s : State) : (clearCounters s).faulted c = s.faulted c := rfl

@[simp] theorem advance_initialized (n : EncoderState) (s : State) : (advance n s).initialized = s.initialized := rfl

@[simp] theorem advance_faulted (n : EncoderState) (c : Cause) (s : State) : (advance n s).faulted c = s.faulted c := rfl

@[simp] theorem setPosition_initialized (p : Data) (s : State) :
    (setPosition p s).initialized = s.initialized := rfl

@[simp] theorem setPosition_faulted (p : Data) (c : Cause) (s : State) :
    (setPosition p s).faulted c = s.faulted c := rfl

@[simp] theorem setMissedCount_initialized (n : Data) (s : State) :
    (setMissedCount n s).initialized = s.initialized := rfl

@[simp] theorem setMissedCount_faulted (n : Data) (c : Cause) (s : State) :
    (setMissedCount n s).faulted c = s.faulted c := rfl

@[simp] theorem idle_initialized (s : State) : (idle s).initialized = s.initialized := rfl

@[simp] theorem idle_faulted (c : Cause) (s : State) : (idle s).faulted c = s.faulted c := rfl

/-! ### The counters -/

theorem position_range (p : Data) : Config.positionMin ≤ p.toInt ∧ p.toInt ≤ Config.positionMax := by
  have h := BitVec.toInt_lt (x := p)
  have h' := BitVec.le_toInt p
  simp only [Config.positionMin, Config.positionMax]
  omega

/-- An integer in the range of `position` is what the narrowed word reads as. -/
theorem toInt_ofInt_of_range {n : Int} (hl : Config.positionMin ≤ n) (hu : n ≤ Config.positionMax) :
    (BitVec.ofInt 64 n).toInt = n := by
  simp only [Config.positionMin, Config.positionMax] at hl hu
  rw [BitVec.toInt_ofInt]
  exact Int.bmod_eq_of_le (by omega) (by omega)

theorem positionOverflows_eq_false {n : Int} :
    positionOverflows n = false ↔ Config.positionMin ≤ n ∧ n ≤ Config.positionMax := by
  simp [positionOverflows]; omega

/-- Everything the pulse accumulator can do. -/
theorem accumulate_cases (d : Int) (s : State) :
    (Config.positionMin ≤ s.position.toInt + d ∧ s.position.toInt + d ≤ Config.positionMax ∧
      accumulate d s = respond .ok 0 (setPosition (BitVec.ofInt 64 (s.position.toInt + d)) s)) ∨
    ((s.position.toInt + d < Config.positionMin ∨ Config.positionMax < s.position.toInt + d) ∧
      accumulate d s = raise .positionOverflow s) := by
  cases h : positionOverflows (s.position.toInt + d) with
  | false =>
    obtain ⟨hl, hu⟩ := positionOverflows_eq_false.mp h
    exact .inl ⟨hl, hu, by simp [accumulate, h]⟩
  | true =>
    refine .inr ⟨?_, by simp [accumulate, h]⟩
    simp [positionOverflows] at h
    omega

/-- Everything the missed-edge detector can do. -/
theorem countMissed_cases (s : State) :
    (s.missedCount.toNat < Config.missedMax ∧
      countMissed s = respond .ok 0 (setMissedCount (s.missedCount + 1) s)) ∨
    (s.missedCount.toNat = Config.missedMax ∧ countMissed s = raise .missedOverflow s) := by
  have hlt := s.missedCount.isLt
  by_cases h : s.missedCount.toNat = Config.missedMax
  · exact .inr ⟨h, by simp [countMissed, missedOverflows, h]⟩
  · refine .inl ⟨?_, by simp [countMissed, missedOverflows, h]⟩
    simp only [Config.missedMax] at h ⊢
    omega

/-! ### Update -/

/-- A looked-up cell that is not the sentinel is the step of its transition. -/
theorem update_of_not_missed {n : EncoderState} {s : State} (h : transition s.priorState n ≠ .missed) :
    update n s =
      advance n (accumulate (romRead (romAddress s.priorState n)).toInt s) := by
  simp only [transition] at h
  simp only [update, applyCell, if_neg h]

theorem update_of_missed {n : EncoderState} {s : State} (h : transition s.priorState n = .missed) :
    update n s = advance n (countMissed s) := by
  simp only [transition] at h
  simp only [update, applyCell, if_pos h]

/-- The signed value of a looked-up step. -/
theorem cell_toInt (p n : EncoderState) :
    (transition p n = .noChange ∧ (romRead (romAddress p n)).toInt = 0) ∨
    (transition p n = .forward ∧ (romRead (romAddress p n)).toInt = 1) ∨
    (transition p n = .backward ∧ (romRead (romAddress p n)).toInt = -1) ∨
    transition p n = .missed := by
  revert p n; decide

@[simp] theorem update_priorState (n : EncoderState) (s : State) : (update n s).priorState = n := rfl

/-- Update leaves the environment as it is. -/
theorem update_environment (n : EncoderState) (s : State) : Safety.SameEnvironment s (update n s) := by
  unfold Safety.SameEnvironment
  rcases eq_or_ne (transition s.priorState n) .missed with h | h
  · rw [update_of_missed h]
    rcases countMissed_cases s with ⟨-, e⟩ | ⟨-, e⟩ <;> simp [e]
  · rw [update_of_not_missed h]
    rcases accumulate_cases (romRead (romAddress s.priorState n)).toInt s with ⟨-, -, e⟩ | ⟨-, e⟩ <;> simp [e]

/-! ### Ticks -/

/-- Everything an edge command can do. -/
theorem edge_cases (n : EncoderState) (s : State) :
    (s.initialized = true ∧ edge n s = update n s) ∨
    (s.initialized = false ∧ edge n s = raise .preconditionViolation s) := by
  cases h : s.initialized <;> simp [edge, h]

/-- The cell a `tick_a` reads: step 0 when the level is the stored one, step -1 otherwise. -/
theorem cell_candidateA (l : Bool) (p : EncoderState) :
    (romRead (romAddress p (candidateA l p))).toInt = if l = levelA p then 0 else -1 := by
  revert l p; decide

/-- The cell a `tick_b` reads: step 0 when the level is the stored one, step +1 otherwise. -/
theorem cell_candidateB (l : Bool) (p : EncoderState) :
    (romRead (romAddress p (candidateB l p))).toInt = if l = levelB p then 0 else 1 := by
  revert l p; decide

@[simp] theorem levelA_candidateA (l : Bool) (p : EncoderState) : levelA (candidateA l p) = l := by
  revert l p; decide

@[simp] theorem levelB_candidateA (l : Bool) (p : EncoderState) : levelB (candidateA l p) = levelB p := by
  revert l p; decide

@[simp] theorem levelA_candidateB (l : Bool) (p : EncoderState) : levelA (candidateB l p) = levelA p := by
  revert l p; decide

@[simp] theorem levelB_candidateB (l : Bool) (p : EncoderState) : levelB (candidateB l p) = l := by
  revert l p; decide

/-- `tickLevelA` names exactly the `tick_a` words. -/
theorem tickLevelA_eq_some {w : Word} {l : Bool} :
    Safety.tickLevelA w = some l ↔ decode w = .command (.tickA l) := by
  revert w l; decide

/-- `tickLevelB` names exactly the `tick_b` words. -/
theorem tickLevelB_eq_some {w : Word} {l : Bool} :
    Safety.tickLevelB w = some l ↔ decode w = .command (.tickB l) := by
  revert w l; decide

/-! ### The environment -/

@[simp] theorem delivered_priorState (s : State) : s.delivered.priorState = s.priorState := by
  unfold State.delivered; split <;> (try rfl); cases ‹Context› <;> rfl

@[simp] theorem delivered_position (s : State) : s.delivered.position = s.position := by
  unfold State.delivered; split <;> (try rfl); cases ‹Context› <;> rfl

@[simp] theorem delivered_missedCount (s : State) : s.delivered.missedCount = s.missedCount := by
  unfold State.delivered; split <;> (try rfl); cases ‹Context› <;> rfl

@[simp] theorem delivered_status (s : State) : s.delivered.status = s.status := by
  unfold State.delivered; split <;> (try rfl); cases ‹Context› <;> rfl

@[simp] theorem delivered_response (s : State) : s.delivered.response = s.response := by
  unfold State.delivered; split <;> (try rfl); cases ‹Context› <;> rfl

@[simp] theorem delivered_schedule (s : State) : s.delivered.schedule = s.schedule.tail := by
  unfold State.delivered; split <;> rename_i h <;> simp [h]

@[simp] theorem delivered_initialized (s : State) : s.delivered.initialized = s.initialized := by
  simp [State.initialized]

@[simp] theorem delivered_faulted (c : Cause) (s : State) : s.delivered.faulted c = s.faulted c := by
  simp [State.faulted]

/-- What delivery does to a queue: the granted context's first word leaves it, the others keep theirs. -/
theorem delivered_queue (s : State) (c : Context) :
    s.delivered.queue c =
      if s.schedule.head?.bind Slot.grant = some c then (s.queue c).tail else s.queue c := by
  unfold State.delivered
  split
  · rename_i h; simp [h]
  · rename_i h; simp [h]; cases c <;> rfl
  · rename_i c' _ h; cases c <;> cases c' <;> simp [h, State.popQueue, State.queue]

end Sys2Proof.Machine
end

