-- ==== Sys2Proof/Laws/PerInstr.lean ====
section
/-! SUPPORT. Per command, as syntax: the encoded word is a well-formed command word with the opcode that the opcode map gives
the command (30_encoding R80), and its must-be-zero bits are zero (R78, R79). -/

namespace Sys2Proof.Laws.EncodedWord

/-- The opcode of a command (30_encoding R80). -/
def opcode : Instr → BitVec 3
  | .initializeState _ _ => 1
  | .tickA _ => 2
  | .tickB _ => 3
  | .setHome => 4
  | .getPosition _ => 5
  | .pulsesMissed => 6

/-- The word of `i` has its opcode, is well formed, and is not one of the stuck-bus words (30_encoding R82). -/
def Statement (i : Instr) : Prop :=
  opField (encode i) = opcode i ∧ (encode i).wellFormed = true ∧ encode i ≠ 0 ∧ encode i ≠ BitVec.allOnes 5

theorem initializeState (a b : Bool) : Statement (.initializeState a b) := by
  cases a <;> cases b <;> simp only [Statement] <;> decide

theorem tickA (l : Bool) : Statement (.tickA l) := by
  cases l <;> simp only [Statement] <;> decide

theorem tickB (l : Bool) : Statement (.tickB l) := by
  cases l <;> simp only [Statement] <;> decide

theorem setHome : Statement .setHome := by
  simp only [Statement]; decide

theorem getPosition (r : Bool) : Statement (.getPosition r) := by
  cases r <;> simp only [Statement] <;> decide

theorem pulsesMissed : Statement .pulsesMissed := by
  simp only [Statement]; decide

end Sys2Proof.Laws.EncodedWord
end

