-- ==== Sys2Proof/Laws/Step.lean ====
section
/-! SUPPORT. What an accepted tick is, and the inversion lemmas of `exec` and `step`: if they answer a next state, then one of
these cases holds. -/

namespace Sys2Proof.Machine

/-- An accepted `tick_a` is one accumulation of 0 or -1, then the advance to the candidate state. -/
theorem execTickA_accepted {s : State} (l : Bool) (h : s.initialized = true) :
    execTickA l s =
      .next (advance (candidateA l s.priorState) (accumulate (if l = levelA s.priorState then 0 else -1) s)) := by
  have hne : ∀ (l : Bool) (p : EncoderState), transition p (candidateA l p) ≠ .missed := by decide
  simp only [execTickA, edge, h, if_true, update_of_not_missed (hne l s.priorState), cell_candidateA]

/-- An accepted `tick_b` is one accumulation of 0 or +1, then the advance to the candidate state. -/
theorem execTickB_accepted {s : State} (l : Bool) (h : s.initialized = true) :
    execTickB l s =
      .next (advance (candidateB l s.priorState) (accumulate (if l = levelB s.priorState then 0 else 1) s)) := by
  have hne : ∀ (l : Bool) (p : EncoderState), transition p (candidateB l p) ≠ .missed := by decide
  simp only [execTickB, edge, h, if_true, update_of_not_missed (hne l s.priorState), cell_candidateB]

/-- A rejected tick is one raised fault. -/
theorem edge_rejected {s : State} (n : EncoderState) (h : s.initialized = false) :
    edge n s = raise .preconditionViolation s := by
  simp [edge, h]

/-- An edge command leaves the environment as it is. -/
theorem edge_environment (n : EncoderState) (s : State) : Safety.SameEnvironment s (edge n s) := by
  rcases edge_cases n s with ⟨-, e⟩ | ⟨-, e⟩ <;> rw [e]
  · exact update_environment n s
  · exact ⟨rfl, rfl, rfl, rfl⟩

/-- No command changes what the contexts have still to issue. -/
theorem exec_environment {i : Instr} {s t : State} (h : exec i s = .next t) : Safety.SameEnvironment s t := by
  cases i with
  | initializeState a b => cases h; exact ⟨rfl, rfl, rfl, rfl⟩
  | tickA l => cases h; exact edge_environment _ s
  | tickB l => cases h; exact edge_environment _ s
  | setHome => cases h; exact ⟨rfl, rfl, rfl, rfl⟩
  | getPosition r => cases h; cases r <;> exact ⟨rfl, rfl, rfl, rfl⟩
  | pulsesMissed => cases h; exact ⟨rfl, rfl, rfl, rfl⟩

/-- Everything a step can do: reset, nothing, a rejected word, or a command. -/
theorem step_cases {s t : State} (h : step s = .next t) :
    (s.presented.rst = true ∧ t = performReset s.delivered) ∨
    (s.presented.rst = false ∧ s.presented.cmd = none ∧ t = idle s.delivered) ∨
    (s.presented.rst = false ∧ ∃ w why, s.presented.cmd = some w ∧ decode w = .reserved why ∧
      t = raise .illegalCommand s.delivered) ∨
    (s.presented.rst = false ∧ ∃ w i, s.presented.cmd = some w ∧ decode w = .command i ∧
      exec i s.delivered = .next t) := by
  unfold step at h
  cases hr : s.presented.rst with
  | true => rw [hr] at h; cases h; exact .inl ⟨rfl, rfl⟩
  | false =>
    rw [hr] at h
    cases hc : s.presented.cmd with
    | none => rw [hc] at h; cases h; exact .inr (.inl ⟨rfl, rfl, rfl⟩)
    | some w =>
      rw [hc] at h
      cases hd : decode w with
      | reserved why =>
        simp only [hd, Bool.false_eq_true, if_false] at h
        cases h
        exact .inr (.inr (.inl ⟨rfl, w, why, rfl, hd, rfl⟩))
      | command i =>
        simp only [hd, Bool.false_eq_true, if_false] at h
        exact .inr (.inr (.inr ⟨rfl, w, i, rfl, hd, h⟩))

/-- No step adds a word or a slot: the environment after it is the delivered one. -/
theorem step_environment {s t : State} (h : step s = .next t) : Safety.SameEnvironment s.delivered t := by
  rcases step_cases h with ⟨-, rfl⟩ | ⟨-, -, rfl⟩ | ⟨-, w, why, -, -, rfl⟩ | ⟨-, w, i, -, -, he⟩
  · exact ⟨rfl, rfl, rfl, rfl⟩
  · exact ⟨rfl, rfl, rfl, rfl⟩
  · exact ⟨rfl, rfl, rfl, rfl⟩
  · exact exec_environment he

end Sys2Proof.Machine
end

