-- ==== Sys2Proof/Tests/Slice0.lean ====
section
/-! SUPPORT. The model's own tests. Expected values are those of spec/95_test_vectors.md and of the rules named. -/

namespace Sys2Proof.Tests

open Sys2Proof.Machine Sys2Proof.Safety

/-- A state from the four registers, with no response and an idle environment. -/
def regs (p : EncoderState) (pos : Data) (mc : Data) (st : BitVec 5) : State :=
  { State.reset with priorState := p, position := pos, missedCount := mc, status := st }

/-- The four registers of a state, as 95_test_vectors writes them. -/
def look (s : State) : EncoderState × Data × Data × BitVec 5 := (s.priorState, s.position, s.missedCount, s.status)

/-- What a step left, if it left a state: its registers and its response. -/
def left (o : Host.Outcome State Fault Refusal) : Option ((EncoderState × Data × Data × BitVec 5) × Option Response) :=
  match o with
  | .next t => some (look t, t.response)
  | .fault _ => none
  | .refused _ => none

/-- Registers and response. -/
def gives (p : EncoderState) (pos : Data) (mc : Data) (st : BitVec 5) (r : Response) :
    Option ((EncoderState × Data × Data × BitVec 5) × Option Response) := some ((p, pos, mc, st), some r)

def positionTop : Data := 0x7FFFFFFFFFFFFFFF
def positionBottom : Data := 0x8000000000000000
def missedTop : Data := 0xFFFFFFFFFFFFFFFF

/-- One slot granted to a context, with its first word, over given registers. -/
def granted (rst : Bool) (w : Word) (s : State) : State :=
  { s with queueA := [w], schedule := [⟨rst, some .channelA⟩] }

/-! ### Well-formedness: an ill-formed word for each check -/

theorem test_wellFormed_refuses_opcode_zero : (0x00 : Word).wellFormed = false := by decide
theorem test_wellFormed_refuses_opcode_seven : (0x1C : Word).wellFormed = false := by decide
theorem test_wellFormed_refuses_format_L_bit : (0x0A : Word).wellFormed = false := by decide
theorem test_wellFormed_refuses_format_N_high : (0x12 : Word).wellFormed = false := by decide
theorem test_wellFormed_refuses_format_N_low : (0x19 : Word).wellFormed = false := by decide
theorem test_wellFormed_accepts : (0x07 : Word).wellFormed = true := by decide

/-! ### Decoding: words written out from 30_encoding R77 to R80 -/

theorem test_decode_initialize_state : decode 0b00110 = .command (.initializeState true false) := by decide
theorem test_decode_tick_a : decode 0b01001 = .command (.tickA true) := by decide
theorem test_decode_tick_b : decode 0b01100 = .command (.tickB false) := by decide
theorem test_decode_set_home : decode 0b10000 = .command .setHome := by decide
theorem test_decode_get_position : decode 0b10101 = .command (.getPosition true) := by decide
theorem test_decode_pulses_missed : decode 0b11000 = .command .pulsesMissed := by decide
theorem test_decode_reserved : decode 0b11111 = .reserved .reservedOpcode := by decide
theorem test_decode_table_word : decodeTableWord 8 0x0D = some (.tickB true) := by decide
theorem test_decode_table_word_six_bits : decodeTableWord 8 0x2D = none := by decide

/-! ### The assembler: 30_encoding R90, R91 -/

theorem test_assembler_alias_comment :
    parseLine "  OnEdgeA true # edge".toList = some (.command (.tickA true)) := by decide
theorem test_assembler_default_operand :
    parseLine "get_position".toList = some (.command (.getPosition false)) := by decide
theorem test_assembler_missing_comma : parseLine "initialize_state 1 0".toList = none := by decide
theorem test_assembler_reset : (parseLine "reset".toList).bind Line.portInput = some ⟨true, none⟩ := by decide

theorem test_assembler_program :
    (parseProgram ⟨4, by decide⟩ ["reset # Construct".toList, "tick_b 0".toList]).map
      (fun p => p.start.state.presented) = some ⟨true, none⟩ := by decide

/-! ### The commands: 95_test_vectors V-I, V-T, V-H -/

theorem test_initialize_state_keeps_counters :
    left (exec (.initializeState true false) (regs 0b01 7 0 0b00001)) = gives 0b10 7 0 0b00001 ⟨.ok, 0⟩ := by decide
theorem test_initialize_state_keeps_fault_bits :
    left (exec (.initializeState true true) (regs 0b00 0 0 0b00010)) = gives 0b11 0 0 0b00011 ⟨.ok, 0⟩ := by decide
theorem test_tick_a_scenario_third_step :
    left (exec (.tickA false) (regs 0b11 0 0 0b00001)) = gives 0b01 (-1) 0 0b00001 ⟨.ok, 0⟩ := by decide
theorem test_tick_a_lower_bound :
    left (exec (.tickA true) (regs 0b00 positionBottom 0 0b00001)) =
      gives 0b10 positionBottom 0 0b01001 ⟨.posOvf, 0⟩ := by decide
theorem test_tick_b_upper_bound :
    left (exec (.tickB true) (regs 0b00 positionTop 0 0b00001)) =
      gives 0b01 positionTop 0 0b01001 ⟨.posOvf, 0⟩ := by decide
theorem test_tick_b_before_initialize :
    left (exec (.tickB true) (regs 0b00 0 0 0b00010)) = gives 0b00 0 0 0b00010 ⟨.precond, 0⟩ := by decide
theorem test_set_home_keeps_fault_bits :
    left (exec .setHome (regs 0b01 9 0 0b01011)) = gives 0b01 0 0 0b01011 ⟨.ok, 0⟩ := by decide
theorem test_get_position_negative :
    left (exec (.getPosition false) (regs 0b11 (-1) 0 0b00001)) =
      gives 0b11 (-1) 0 0b00001 ⟨.ok, 0xFFFFFFFFFFFFFFFF⟩ := by decide
theorem test_get_position_reset_clears_missed :
    left (exec (.getPosition true) (regs 0b10 4 3 0b00001)) = gives 0b10 0 0 0b00001 ⟨.ok, 4⟩ := by decide
theorem test_pulses_missed :
    left (exec .pulsesMissed (regs 0b10 4 3 0b00001)) = gives 0b10 4 3 0b00001 ⟨.ok, 3⟩ := by decide
theorem test_update_missed_overflow :
    look (update 0b11 (regs 0b00 0 missedTop 0b00001)) = (0b11, 0, missedTop, 0b10001) := by decide

/-! ### Steps: 95_test_vectors V-E, V-X -/

theorem test_step_reserved :
    left (step (granted false 0x0A (regs 0b00 0 0 0b00001))) = gives 0b00 0 0 0b00101 ⟨.illegal, 0⟩ := by decide
theorem test_step_reset_wins :
    left (step (granted true 0x0D (regs 0b10 3 0 0b00001))) = some ((0, 0, 0, 0), none) := by decide
theorem test_step_idle :
    left (step (regs 0b10 3 0 0b00001)) = some ((0b10, 3, 0, 0b00001), none) := by decide
theorem test_step_runs_fetch_word :
    left (step (State.reset.withFetchWord 8 0x06)) = gives 0b10 0 0 0b00001 ⟨.ok, 0⟩ := by decide

/-! ### Witnesses: a state and operands that meet the hypotheses of each statement -/

theorem witness_PositionArithmetic_noChange :
    let s := regs 0b10 positionTop 0 1
    transition s.priorState 0b10 = .noChange ∧ -2 ^ 63 ≤ s.position.toInt + 0 ∧ s.position.toInt + 0 ≤ 2 ^ 63 - 1 := by
  decide
theorem witness_PositionArithmetic_forward :
    let s := regs 0b00 positionBottom 0 1
    transition s.priorState 0b01 = .forward ∧ -2 ^ 63 ≤ s.position.toInt + 1 ∧ s.position.toInt + 1 ≤ 2 ^ 63 - 1 := by
  decide
theorem witness_PositionArithmetic_backward :
    let s := regs 0b00 positionTop 0 1
    transition s.priorState 0b10 = .backward ∧ -2 ^ 63 ≤ s.position.toInt + -1 ∧
      s.position.toInt + -1 ≤ 2 ^ 63 - 1 := by decide
theorem witness_MissedArithmetic_counted : (regs 0b01 0 (missedTop - 1) 1).missedCount.toNat < 2 ^ 64 - 1 := by decide
theorem witness_PositionArithmetic_held_top :
    (regs 0b00 positionTop 0 1).position.toInt = 2 ^ 63 - 1 ∧ transition 0b00 0b01 = .forward := by decide
theorem witness_PositionArithmetic_held_bottom :
    (regs 0b00 positionBottom 0 1).position.toInt = -2 ^ 63 ∧ transition 0b00 0b10 = .backward := by decide
theorem witness_MissedArithmetic_held : (regs 0b00 0 missedTop 1).missedCount.toNat = 2 ^ 64 - 1 := by decide
theorem witness_TickAResult_stored :
    let s := regs 0b10 positionBottom 0 1
    s.initialized = true ∧ true = levelA s.priorState := by decide
theorem witness_TickAResult_counted :
    let s := regs 0b10 (positionBottom + 1) 0 1
    s.initialized = true ∧ s.position.toInt ≠ -2 ^ 63 := by decide
theorem witness_TickBResult_stored :
    let s := regs 0b01 positionTop 0 1
    s.initialized = true ∧ true = levelB s.priorState := by decide
theorem witness_TickBResult_counted :
    let s := regs 0b01 (positionTop - 1) 0 1
    s.initialized = true ∧ s.position.toInt ≠ 2 ^ 63 - 1 := by decide
theorem witness_TickTable :
    let s := regs 0b11 (positionTop - 1) 0 1
    s.priorState = 0b11 ∧ s.initialized = true ∧ -2 ^ 63 < s.position.toInt ∧ s.position.toInt < 2 ^ 63 - 1 := by
  decide
theorem witness_TickBeforeInitialize : State.reset.initialized = false := by decide
theorem witness_TickAtBound_lower :
    let s := regs 0b00 positionBottom 0 1
    s.initialized = true ∧ true ≠ levelA s.priorState ∧ s.position.toInt = -2 ^ 63 := by decide
theorem witness_TickAtBound_upper :
    let s := regs 0b00 positionTop 0 1
    s.initialized = true ∧ true ≠ levelB s.priorState ∧ s.position.toInt = 2 ^ 63 - 1 := by decide
theorem witness_RepeatedTickIgnored : (regs 0b00 positionBottom 0 1).initialized = true := by decide
theorem witness_TickBounds : (Instr.tickB true = .tickA true ∨ Instr.tickB true = .tickB true) := by decide
theorem witness_ReservedWordStep :
    (granted false 0x17 State.reset).presented = ⟨false, some 0x17⟩ ∧ (0x17 : Word).wellFormed = false := by decide
theorem witness_StatusBitsSticky : (granted false 0x00 (regs 0 0 0 0b11111)).presented.rst = false := by decide
theorem witness_FaultBitsNotRead :
    AgreeUpToFaultBits (regs 0b01 5 0 0b00001) (regs 0b01 5 0 0b11111) :=
  ⟨rfl, rfl, rfl, rfl, rfl, rfl, rfl, rfl, rfl⟩
theorem witness_NoPreconditionFaultAfterInitialize :
    let s := granted false 0x09 (regs 0 0 0 1)
    s.initialized = true ∧ s.presented.rst = false := by decide
theorem witness_StepRunsDecodedCommand :
    (granted false 0x15 State.reset).presented = ⟨false, some 0x15⟩ ∧
      decode 0x15 = .command (.getPosition true) ∧ (Instr.getPosition true).wellFormed = true := by decide
theorem witness_DeliveredExactlyOnce :
    let s := granted true 0x1F State.reset
    s.schedule = [⟨true, some .channelA⟩] ∧ s.queue .channelA = [0x1F] := by decide
theorem witness_AnyContextMayGoNext : (granted false 0x15 State.reset).queue .channelA = [0x15] := by decide
theorem witness_ResetStep : (granted true 0x0D (regs 0b10 3 0 1)).presented.rst = true := by decide
theorem witness_PendingWordsKept_reset :
    (granted true 0x0D (regs 0b10 3 0 1)).presented.rst = true := by decide
theorem witness_PendingWordsKept_idle : (regs 0b10 3 0 1).presented.cmd = none := by decide
theorem witness_IdleStep_exhausted : (regs 0b10 3 0 1).presented = ⟨false, none⟩ := by decide
theorem witness_IdleStep_empty_queue :
    ({ regs 0b10 3 0 1 with schedule := [⟨false, some .reader⟩] } : State).presented = ⟨false, none⟩ := by decide
theorem witness_OutputPortsShow : (respond .ok 4 State.reset).response = some ⟨.ok, 4⟩ := by decide
theorem witness_ConstructChecksCpr : (0xFFFFFFFF : BitVec 32) ≠ 0 := by decide
theorem witness_RadiansFormula : ∃ c : Cpr, c.val = 4 ∧ IsRadians 0 c 0 :=
  ⟨⟨4, by decide⟩, rfl, by simp [IsRadians]⟩
theorem witness_ZeroUntilInitializedKept :
    let s := granted false 0x06 State.reset
    ZeroUntilInitialized s ∧ left (step s) = gives 0b10 0 0 1 ⟨.ok, 0⟩ :=
  ⟨fun _ => ⟨rfl, rfl, rfl⟩, by decide⟩
theorem witness_NothingMissedKept :
    let s := granted false 0x09 (regs 0 0 0 1)
    NothingMissed s ∧ left (step s) = gives 0b10 (-1) 0 1 ⟨.ok, 0⟩ :=
  ⟨⟨rfl, rfl⟩, by decide⟩
theorem witness_RegisterWriters_priorState_position :
    let s := granted false 0x09 (regs 0 0 0 1)
    left (step s) = gives 0b10 (-1) 0 1 ⟨.ok, 0⟩ ∧ s.presented.rst = false := by decide
theorem witness_RegisterWriters_missedCount :
    let s := granted false 0x10 (regs 0 0 3 1)
    left (step s) = gives 0 0 0 1 ⟨.ok, 0⟩ ∧ s.presented.rst = false := by decide
theorem witness_RegisterWriters_status :
    let s := granted false 0x1F (regs 0 0 0 1)
    left (step s) = gives 0 0 0 0b00101 ⟨.illegal, 0⟩ ∧ s.presented.rst = false := by decide

/-- Two contexts with ticks to issue and a reader between them, as in 95_test_vectors P6 but shorter. -/
def threeContexts (slots : List Slot) : State :=
  { regs 0 0 0 1 with queueA := [0x09], queueB := [0x0D], queueReader := [0x14], schedule := slots }

theorem monitoring_threeContexts : Monitoring (threeContexts [⟨false, some .channelA⟩, ⟨false, some .channelB⟩]) := by
  refine ⟨rfl, ?_, ?_, ?_, ?_⟩ <;> decide

theorem witness_ExpectedPositionKept :
    let s := threeContexts [⟨false, some .channelA⟩, ⟨false, some .channelB⟩]
    Monitoring s ∧ ∃ t, step s = .next t ∧ t.faulted .positionOverflow = false :=
  ⟨monitoring_threeContexts, _, rfl, rfl⟩
theorem witness_InterleavingResult :
    let s := threeContexts [⟨false, some .channelA⟩, ⟨false, some .channelB⟩]
    Monitoring s ∧ ∃ t, core.run 2 s = .next t ∧ t.faulted .positionOverflow = false ∧
      t.queueA = [] ∧ t.queueB = [] :=
  ⟨monitoring_threeContexts, _, rfl, rfl, rfl, rfl⟩
theorem witness_InterleavingsAgree :
    let s := threeContexts [⟨false, some .channelA⟩, ⟨false, some .channelB⟩]
    let slots := [⟨false, some .channelB⟩, ⟨false, some .reader⟩, ⟨false, some .channelA⟩]
    Monitoring s ∧ (∀ slot ∈ slots, slot.rst = false) ∧
      (∃ t, core.run 2 s = .next t ∧ t.faulted .positionOverflow = false ∧ t.queueA = [] ∧ t.queueB = []) ∧
      ∃ t', core.run 3 { s with schedule := slots } = .next t' ∧
        t'.faulted .positionOverflow = false ∧ t'.queueA = [] ∧ t'.queueB = [] :=
  ⟨monitoring_threeContexts, by decide, ⟨_, rfl, rfl, rfl, rfl⟩, _, rfl, rfl, rfl, rfl⟩

end Sys2Proof.Tests
end

section
/-! A step with a command word on the port (00_scope R17; 70_reset_and_hazards R206). -/

namespace Sys2Proof.Machine

/-- Delivery takes from the environment alone: QDEC's registers and the last response are kept. -/
theorem delivered_eq_of_environment (s : State) :
    s.delivered = { s with
      queueA := s.delivered.queueA
      queueB := s.delivered.queueB
      queueReader := s.delivered.queueReader
      schedule := s.delivered.schedule } := by
  unfold State.delivered
  split
  case h_1 => rfl
  case h_2 => rfl
  case h_3 c _ _ => cases c <;> rfl

/-- The command arm of `step`: with `rst` low and a word on the port that decodes to `i`, the step is `exec i`. -/
theorem step_of_command {s : State} {w : Word} {i : Instr} (hp : s.presented = ⟨false, some w⟩)
    (hd : decode w = .command i) : step s = exec i s.delivered := by
  simp [step, hp, hd]

/-- Settles O32. Well-formedness of the command is not used: every `Instr` is well formed by its type. -/
theorem stepRunsDecodedCommand : Obligations.StepRunsDecodedCommand := by
  intro s w i hp hd _
  exact ⟨step_of_command hp hd, delivered_eq_of_environment s⟩

end Sys2Proof.Machine
end

section
/-! Everything one command, and so one step, can do to the state, and that it always answers (10_state R35, R37;
60_exceptions R176). -/

namespace Sys2Proof.Machine

/-- Everything a command can do: `initialize_state`, a rejected tick, an accepted tick, a clear of both counters, or a read
that writes no register. -/
theorem exec_cases {i : Instr} {s t : State} (h : exec i s = .next t) :
    (∃ a b, i = .initializeState a b ∧ t = respond .ok 0 (advance (encoderState a b) (markInitialized s))) ∨
    (((∃ l, i = .tickA l) ∨ ∃ l, i = .tickB l) ∧ s.initialized = false ∧ t = raise .preconditionViolation s) ∨
    (((∃ l, i = .tickA l) ∨ ∃ l, i = .tickB l) ∧ s.initialized = true ∧ ∃ n d, t = advance n (accumulate d s)) ∨
    ((i = .setHome ∨ i = .getPosition true) ∧ ∃ d, t = respond .ok d (clearCounters s)) ∨
    ((i = .getPosition false ∨ i = .pulsesMissed) ∧ ∃ d, t = respond .ok d s) := by
  cases i with
  | initializeState a b => cases h; exact .inl ⟨a, b, rfl, rfl⟩
  | tickA l =>
    cases hi : s.initialized with
    | false => cases h; exact .inr (.inl ⟨.inl ⟨l, rfl⟩, rfl, edge_rejected _ hi⟩)
    | true => cases (execTickA_accepted l hi).symm.trans h; exact .inr (.inr (.inl ⟨.inl ⟨l, rfl⟩, rfl, _, _, rfl⟩))
  | tickB l =>
    cases hi : s.initialized with
    | false => cases h; exact .inr (.inl ⟨.inr ⟨l, rfl⟩, rfl, edge_rejected _ hi⟩)
    | true => cases (execTickB_accepted l hi).symm.trans h; exact .inr (.inr (.inl ⟨.inr ⟨l, rfl⟩, rfl, _, _, rfl⟩))
  | setHome => cases h; exact .inr (.inr (.inr (.inl ⟨.inl rfl, _, rfl⟩)))
  | getPosition r =>
    cases h
    cases r
    · exact .inr (.inr (.inr (.inr ⟨.inl rfl, _, rfl⟩)))
    · exact .inr (.inr (.inr (.inl ⟨.inr rfl, _, rfl⟩)))
  | pulsesMissed => cases h; exact .inr (.inr (.inr (.inr ⟨.inr rfl, _, rfl⟩)))

theorem exists_exec_eq_next (i : Instr) (s : State) : ∃ t, exec i s = .next t := by
  cases i <;> exact ⟨_, rfl⟩

theorem exists_step_eq_next (s : State) : ∃ t, step s = .next t := by
  unfold step
  split
  · exact ⟨_, rfl⟩
  · split
    · exact ⟨_, rfl⟩
    · split
      · exact exists_exec_eq_next _ _
      · exact ⟨_, rfl⟩

/-! ### What the pulse accumulator leaves unchanged -/

@[simp] theorem accumulate_missedCount (d : Int) (s : State) : (accumulate d s).missedCount = s.missedCount := by
  rcases accumulate_cases d s with ⟨-, -, e⟩ | ⟨-, e⟩ <;> simp [e]

@[simp] theorem accumulate_initialized (d : Int) (s : State) : (accumulate d s).initialized = s.initialized := by
  rcases accumulate_cases d s with ⟨-, -, e⟩ | ⟨-, e⟩ <;> simp [e]

theorem and_accumulate_status (d : Int) (s : State) : s.status &&& (accumulate d s).status = s.status := by
  rcases accumulate_cases d s with ⟨-, -, e⟩ | ⟨-, e⟩ <;> simp [e, and_setStatusBit]

end Sys2Proof.Machine
end

section
/-! The registers at reset, the output ports, `CPR`, and the invariant of 10_state R32. -/

namespace Sys2Proof.Machine

open Sys2Proof.Safety

/-- Settles O39. -/
theorem resetValues : Obligations.ResetValues :=
  ⟨rfl, rfl, rfl, rfl, rfl, rfl⟩

/-- Settles O40: the response ports follow the held response, absent or present. -/
theorem outputPortsShow : Obligations.OutputPortsShow := by
  intro s
  refine ⟨rfl, rfl, rfl, Option.isSome_eq_false_iff.trans Option.isNone_iff_eq_none, ?_⟩
  intro r hr
  simp [State.outputs, hr]

/-- Settles O42: the step of the state is chosen before `CPR` is looked at. -/
theorem cprAffectsNoRegister : Obligations.CprAffectsNoRegister := by
  intro s c
  obtain ⟨t, ht⟩ := exists_step_eq_next s
  exact ⟨t, ht, by simp [Decoder.step, ht]⟩

/-- Settles O44. -/
theorem zeroUntilInitializedAtReset : Obligations.ZeroUntilInitializedAtReset :=
  fun _ => ⟨rfl, rfl, rfl⟩

/-- Before `initialize_state` a command that leaves `INIT` clear writes zeros or nothing. -/
theorem exec_keeps_zeroUntilInitialized {i : Instr} {s t : State} (hz : ZeroUntilInitialized s)
    (h : exec i s = .next t) : ZeroUntilInitialized t := by
  intro ht
  rcases exec_cases h with ⟨a, b, -, rfl⟩ | ⟨-, hi, rfl⟩ | ⟨-, hi, n, d, rfl⟩ | ⟨-, d, rfl⟩ | ⟨-, d, rfl⟩
  · simp at ht
  · exact hz hi
  · simp [hi] at ht
  · obtain ⟨hp, -⟩ := hz ht
    exact ⟨hp, rfl, rfl⟩
  · exact hz ht

theorem delivered_zeroUntilInitialized {s : State} (hz : ZeroUntilInitialized s) :
    ZeroUntilInitialized s.delivered := by
  simpa [ZeroUntilInitialized] using hz

/-- Settles O45, by the cases of a step. -/
theorem zeroUntilInitializedKept : Obligations.ZeroUntilInitializedKept := by
  intro s t hz h
  have hz' := delivered_zeroUntilInitialized hz
  rcases step_cases h with ⟨-, rfl⟩ | ⟨-, -, rfl⟩ | ⟨-, w, why, -, -, rfl⟩ | ⟨-, w, i, -, -, he⟩
  · exact fun _ => ⟨rfl, rfl, rfl⟩
  · exact hz'
  · intro ht
    exact hz' (by simpa using ht)
  · exact exec_keeps_zeroUntilInitialized hz' he

end Sys2Proof.Machine
end

section
/-! The STATUS bits: sticky, and no command reads a fault bit (10_state R25, R26). -/

namespace Sys2Proof.Machine

open Sys2Proof.Safety

/-- No command clears a STATUS bit. -/
theorem exec_keeps_statusBits {i : Instr} {s t : State} (h : exec i s = .next t) :
    s.status &&& t.status = s.status := by
  rcases exec_cases h with ⟨a, b, -, rfl⟩ | ⟨-, -, rfl⟩ | ⟨-, -, n, d, rfl⟩ | ⟨-, d, rfl⟩ | ⟨-, d, rfl⟩
  · exact and_setStatusBit _ _
  · exact and_setStatusBit _ _
  · exact and_accumulate_status d s
  · exact BitVec.and_self
  · exact BitVec.and_self

/-- Settles O29, by the cases of a step. -/
theorem statusBitsSticky : Obligations.StatusBitsSticky := by
  intro s hrst
  obtain ⟨t, h⟩ := exists_step_eq_next s
  refine ⟨t, h, ?_⟩
  rw [← delivered_status s]
  rcases step_cases h with ⟨hr, -⟩ | ⟨-, -, rfl⟩ | ⟨-, w, why, -, -, rfl⟩ | ⟨-, w, i, -, -, he⟩
  · simp [hrst] at hr
  · exact BitVec.and_self
  · exact and_setStatusBit _ _
  · exact exec_keeps_statusBits he

/-- Settles O23: none of the four commands mentions `prior_state` or STATUS, so both runs are the same update. -/
theorem readersIgnoreFsm : Obligations.ReadersIgnoreFsm := by
  intro i hi s p st
  simp only [List.mem_cons, List.not_mem_nil, or_false] at hi
  rcases hi with rfl | rfl | rfl | rfl <;> exact ⟨_, rfl, rfl, rfl, rfl⟩

end Sys2Proof.Machine

/-! Each shared operation, run from two states that agree up to the fault bits, leaves two such states. -/

namespace Sys2Proof.Safety.AgreeUpToFaultBits

open Sys2Proof.Machine

variable {s s' : State} (h : AgreeUpToFaultBits s s')
include h

theorem respond (st : RspStatus) (d : Data) :
    AgreeUpToFaultBits (Machine.respond st d s) (Machine.respond st d s') := by
  obtain ⟨hp, hx, hm, hi, -, henv⟩ := h
  exact ⟨hp, hx, hm, hi, rfl, henv⟩

theorem raise (c : Cause) : AgreeUpToFaultBits (Machine.raise c s) (Machine.raise c s') := by
  obtain ⟨hp, hx, hm, hi, -, henv⟩ := h
  exact ⟨hp, hx, hm, by simp [hi], rfl, henv⟩

theorem markInitialized : AgreeUpToFaultBits (Machine.markInitialized s) (Machine.markInitialized s') := by
  obtain ⟨hp, hx, hm, -, hr, henv⟩ := h
  exact ⟨hp, hx, hm, by simp, hr, henv⟩

theorem advance (n : EncoderState) : AgreeUpToFaultBits (Machine.advance n s) (Machine.advance n s') := by
  obtain ⟨-, hx, hm, hi, hr, henv⟩ := h
  exact ⟨rfl, hx, hm, hi, hr, henv⟩

theorem setPosition (p : Data) : AgreeUpToFaultBits (Machine.setPosition p s) (Machine.setPosition p s') := by
  obtain ⟨hp, -, hm, hi, hr, henv⟩ := h
  exact ⟨hp, rfl, hm, hi, hr, henv⟩

theorem setMissedCount (n : Data) :
    AgreeUpToFaultBits (Machine.setMissedCount n s) (Machine.setMissedCount n s') := by
  obtain ⟨hp, hx, -, hi, hr, henv⟩ := h
  exact ⟨hp, hx, rfl, hi, hr, henv⟩

theorem clearCounters : AgreeUpToFaultBits (Machine.clearCounters s) (Machine.clearCounters s') :=
  (h.setPosition 0).setMissedCount 0

theorem accumulate (d : Int) : AgreeUpToFaultBits (Machine.accumulate d s) (Machine.accumulate d s') := by
  have ⟨_, hx, _⟩ := h
  unfold Machine.accumulate
  rw [hx]
  split
  · exact h.raise .positionOverflow
  · exact (h.setPosition _).respond .ok 0

theorem countMissed : AgreeUpToFaultBits (Machine.countMissed s) (Machine.countMissed s') := by
  have ⟨_, _, hm, _⟩ := h
  unfold Machine.countMissed
  rw [hm]
  split
  · exact h.raise .missedOverflow
  · exact (h.setMissedCount _).respond .ok 0

theorem update (n : EncoderState) : AgreeUpToFaultBits (Machine.update n s) (Machine.update n s') := by
  have ⟨hp, _⟩ := h
  by_cases hmiss : transition s.priorState n = .missed
  · rw [update_of_missed hmiss, update_of_missed (hp ▸ hmiss)]
    exact h.countMissed.advance n
  · rw [update_of_not_missed hmiss, update_of_not_missed (hp ▸ hmiss), hp]
    exact (h.accumulate _).advance n

theorem edge (n : EncoderState) : AgreeUpToFaultBits (Machine.edge n s) (Machine.edge n s') := by
  have ⟨_, _, _, hi, _⟩ := h
  unfold Machine.edge
  rw [hi]
  split
  · exact h.update n
  · exact h.raise .preconditionViolation

end Sys2Proof.Safety.AgreeUpToFaultBits

namespace Sys2Proof.Machine

open Sys2Proof.Safety

/-- Settles O30: a command is a composition of the shared operations, whose arguments it reads from `prior_state`,
`position`, `missed_count` and `INIT` alone. -/
theorem faultBitsNotRead : Obligations.FaultBitsNotRead := by
  intro i s s' h
  have ⟨hp, hx, hm, _⟩ := h
  cases i with
  | initializeState a b => exact ⟨_, _, rfl, rfl, (h.markInitialized.advance _).respond .ok 0⟩
  | tickA l => exact ⟨_, _, rfl, rfl, hp ▸ h.edge _⟩
  | tickB l => exact ⟨_, _, rfl, rfl, hp ▸ h.edge _⟩
  | setHome => exact ⟨_, _, rfl, rfl, h.clearCounters.respond .ok 0⟩
  | getPosition r =>
    cases r
    · exact ⟨_, _, rfl, rfl, hx ▸ h.respond .ok _⟩
    · exact ⟨_, _, rfl, rfl, hx ▸ h.clearCounters.respond .ok _⟩
  | pulsesMissed => exact ⟨_, _, rfl, rfl, hm ▸ h.respond .ok _⟩

end Sys2Proof.Machine
end

section
/-! Who writes each register (10_state R20 to R22, R35, R37). -/

namespace Sys2Proof.Machine

section

variable {i : Instr} {s t : State}

theorem writer_of_exec_priorState_or_status_ne (h : exec i s = .next t)
    (hne : ¬(t.priorState = s.priorState ∧ t.status = s.status)) :
    (∃ a b, i = .initializeState a b) ∨ (∃ l, i = .tickA l) ∨ ∃ l, i = .tickB l := by
  rcases exec_cases h with ⟨a, b, rfl, -⟩ | ⟨htick, -⟩ | ⟨htick, -⟩ | ⟨-, d, rfl⟩ | ⟨-, d, rfl⟩
  · exact .inl ⟨a, b, rfl⟩
  · exact .inr htick
  · exact .inr htick
  · exact absurd ⟨rfl, rfl⟩ hne
  · exact absurd ⟨rfl, rfl⟩ hne

theorem writer_of_exec_position_ne (h : exec i s = .next t) (hne : t.position ≠ s.position) :
    (∃ l, i = .tickA l) ∨ (∃ l, i = .tickB l) ∨ i = .setHome ∨ i = .getPosition true := by
  rcases exec_cases h with ⟨a, b, -, rfl⟩ | ⟨-, -, rfl⟩ | ⟨htick, -⟩ | ⟨hclear, -⟩ | ⟨-, d, rfl⟩
  · exact absurd rfl hne
  · exact absurd rfl hne
  · exact or_assoc.mp (.inl htick)
  · exact .inr (.inr hclear)
  · exact absurd rfl hne

theorem writer_of_exec_missedCount_ne (h : exec i s = .next t) (hne : t.missedCount ≠ s.missedCount) :
    i = .setHome ∨ i = .getPosition true := by
  rcases exec_cases h with ⟨a, b, -, rfl⟩ | ⟨-, -, rfl⟩ | ⟨-, -, n, d, rfl⟩ | ⟨hclear, -⟩ | ⟨-, d, rfl⟩
  · exact absurd rfl hne
  · exact absurd rfl hne
  · exact absurd (accumulate_missedCount d s) hne
  · exact hclear
  · exact absurd rfl hne

/-- Without reset, a step that changes what neither an idle step nor a rejected word changes runs a command. -/
theorem command_of_step_changes {α : Type} (reg : State → α) (hidle : ∀ u, reg (idle u) = reg u)
    (hraise : ∀ u, reg (raise .illegalCommand u) = reg u) (h : step s = .next t) (hrst : s.presented.rst = false)
    (hne : reg t ≠ reg s.delivered) :
    ∃ w i, s.presented.cmd = some w ∧ decode w = .command i ∧ exec i s.delivered = .next t := by
  rcases step_cases h with ⟨hr, -⟩ | ⟨-, -, rfl⟩ | ⟨-, w, why, -, -, rfl⟩ | ⟨-, hcommand⟩
  · simp [hrst] at hr
  · exact absurd (hidle _) hne
  · exact absurd (hraise _) hne
  · exact hcommand

/-- Without reset, a step that changes STATUS had a word on the port, reserved or a command. -/
theorem word_of_step_status_ne (h : step s = .next t) (hrst : s.presented.rst = false)
    (hne : t.status ≠ s.delivered.status) :
    ∃ w, s.presented.cmd = some w ∧ ∀ i, decode w = .command i → exec i s.delivered = .next t := by
  rcases step_cases h with ⟨hr, -⟩ | ⟨-, -, rfl⟩ | ⟨-, w, why, hw, hd, -⟩ | ⟨-, w, j, hw, hd, he⟩
  · simp [hrst] at hr
  · exact absurd rfl hne
  · exact ⟨w, hw, fun i hi => by simp [hd] at hi⟩
  · refine ⟨w, hw, fun i hi => ?_⟩
    cases hd.symm.trans hi
    exact he

end

/-- Settles O48: a change of a register names its command, and the command its kind. -/
theorem registerWriters : Obligations.RegisterWriters := by
  intro s t h hrst
  rw [← delivered_priorState s, ← delivered_position s, ← delivered_missedCount s, ← delivered_status s]
  refine ⟨fun hne => ?_, fun hne => ?_, fun hne => ?_, fun hne => ?_⟩
  · obtain ⟨w, i, hw, hd, he⟩ :=
      command_of_step_changes State.priorState idle_priorState (raise_priorState _) h hrst hne
    exact ⟨w, i, hw, hd, writer_of_exec_priorState_or_status_ne he fun hk => hne hk.1⟩
  · obtain ⟨w, i, hw, hd, he⟩ :=
      command_of_step_changes State.position idle_position (raise_position _) h hrst hne
    exact ⟨w, i, hw, hd, writer_of_exec_position_ne he hne⟩
  · obtain ⟨w, i, hw, hd, he⟩ :=
      command_of_step_changes State.missedCount idle_missedCount (raise_missedCount _) h hrst hne
    exact ⟨w, i, hw, hd, writer_of_exec_missedCount_ne he hne⟩
  · obtain ⟨w, hw, he⟩ := word_of_step_status_ne h hrst hne
    exact ⟨w, hw, fun i hi => writer_of_exec_priorState_or_status_ne (he i hi) fun hk => hne hk.2⟩

end Sys2Proof.Machine
end

section
/-! The contexts' queues over one step: what is presented, and what each context has left (20_memory R57, R58). -/

namespace Sys2Proof.Machine

/-- A granted context has the first of its words on the port, if it has one. -/
theorem presented_of_grant {s : State} {rst : Bool} {c : Context} {slots : List Slot}
    (h : s.schedule = ⟨rst, some c⟩ :: slots) : s.presented = ⟨rst, (s.queue c).head?⟩ := by
  simp [State.presented, h]

theorem queue_eq_of_sameEnvironment {s t : State} (h : Safety.SameEnvironment s t) (c : Context) :
    t.queue c = s.queue c := by
  obtain ⟨hA, hB, hReader, -⟩ := h
  cases c with
  | channelA => exact hA
  | channelB => exact hB
  | reader => exact hReader

/-- Whatever a step does, it leaves each queue as delivery left it. -/
theorem step_queue {s t : State} (h : step s = .next t) (c : Context) : t.queue c = s.delivered.queue c :=
  queue_eq_of_sameEnvironment (step_environment h) c

/-- Whatever a step does, it spends one slot. -/
theorem step_schedule {s t : State} (h : step s = .next t) : t.schedule = s.schedule.tail := by
  obtain ⟨-, -, -, hschedule⟩ := step_environment h
  exact hschedule.trans (delivered_schedule s)

/-- Settles O33: delivery takes the word, and every step leaves the environment as delivery left it. -/
theorem deliveredExactlyOnce : Obligations.DeliveredExactlyOnce := by
  intro s rst c w words slots hschedule hqueue
  obtain ⟨t, ht⟩ := exists_step_eq_next s
  refine ⟨by simp [presented_of_grant hschedule, hqueue], t, ht, ?_, ?_, fun c' hne => ?_⟩
  · simp [step_queue ht, delivered_queue, hschedule, hqueue]
  · simp [step_schedule ht, hschedule]
  · simp [step_queue ht, delivered_queue, hschedule, hne.symm]

end Sys2Proof.Machine
end

section
/-! The command words: a word is its three fields, what each format decodes to, and the reserved words (30_encoding R76 to R83,
R89). -/

namespace Sys2Proof

variable {w : Word} {i : Instr}

/-! ### The fields of a word -/

theorem packWord_fields (w : Word) : packWord (opField w) (argHigh w) (argLow w) = w := by
  revert w; decide

@[simp] theorem opField_packWord (op : BitVec 3) (hi lo : Bool) : opField (packWord op hi lo) = op := by
  revert op hi lo; decide

@[simp] theorem argHigh_packWord (op : BitVec 3) (hi lo : Bool) : argHigh (packWord op hi lo) = hi := by
  revert op hi lo; decide

@[simp] theorem argLow_packWord (op : BitVec 3) (hi lo : Bool) : argLow (packWord op hi lo) = lo := by
  revert op hi lo; decide

/-- Two words with the same fields are the same word. -/
theorem packWord_eq {op : BitVec 3} {hi lo : Bool} (hop : opField w = op) (hhi : argHigh w = hi)
    (hlo : argLow w = lo) : packWord op hi lo = w := by
  subst hop hhi hlo
  exact packWord_fields w

/-! ### What each format decodes to -/

theorem decodeFormatI_eq_command {make : Bool → Bool → Instr} :
    decodeFormatI make w = .command i ↔ make (argHigh w) (argLow w) = i := by
  simp [decodeFormatI]

theorem decodeFormatL_eq_command {make : Bool → Instr} :
    decodeFormatL make w = .command i ↔ argHigh w = false ∧ make (argLow w) = i := by
  cases h : argHigh w <;> simp [decodeFormatL, h]

theorem decodeFormatN_eq_command {j : Instr} :
    decodeFormatN j w = .command i ↔ (argHigh w = false ∧ argLow w = false) ∧ j = i := by
  cases h : argHigh w <;> cases h' : argLow w <;> simp [decodeFormatN, h, h']

@[simp] theorem decodeFormatL_ne_reservedOpcode (make : Bool → Instr) (w : Word) :
    decodeFormatL make w ≠ .reserved .reservedOpcode := by
  cases h : argHigh w <;> simp [decodeFormatL, h]

@[simp] theorem decodeFormatN_ne_reservedOpcode (j : Instr) (w : Word) :
    decodeFormatN j w ≠ .reserved .reservedOpcode := by
  cases h : argHigh w <;> cases h' : argLow w <;> simp [decodeFormatN, h, h']

theorem decode_encode (i : Instr) : decode (encode i) = .command i := by
  cases i <;> simp [decode, encode, decodeFormatI, decodeFormatL, decodeFormatN]

/-- No operand bit and no must-be-zero bit of a word is lost by the decoder. -/
theorem encode_of_decode (h : decode w = .command i) : encode i = w := by
  unfold decode at h
  split at h
  case h_1 hop =>
    obtain rfl := decodeFormatI_eq_command.mp h
    exact packWord_eq hop rfl rfl
  case h_2 hop | h_3 hop | h_5 hop =>
    obtain ⟨hhi, rfl⟩ := decodeFormatL_eq_command.mp h
    exact packWord_eq hop hhi rfl
  case h_4 hop | h_6 hop =>
    obtain ⟨⟨hhi, hlo⟩, rfl⟩ := decodeFormatN_eq_command.mp h
    exact packWord_eq hop hhi hlo
  case h_7 => cases h

/-- Settles O1: each direction is one of the two round trips. -/
theorem decodeIffEncode : Obligations.DecodeIffEncode := by
  intro w i
  constructor
  · exact encode_of_decode
  · rintro rfl
    exact decode_encode i

/-- Settles O2: the listed words by evaluation; each match and mask against the encodings of its command, for all 32 words. -/
theorem opcodeMap : Obligations.OpcodeMap := by
  refine ⟨by decide, by decide, by decide, fun w => ?_⟩
  simp only [decodeIffEncode w]
  revert w; decide

/-! ### The reserved words -/

theorem opField_reserved_iff (op : BitVec 3) :
    op = 0b000 ∨ op = 0b111 ↔
      op ≠ 0b001 ∧ op ≠ 0b010 ∧ op ≠ 0b011 ∧ op ≠ 0b100 ∧ op ≠ 0b101 ∧ op ≠ 0b110 := by
  revert op; decide

theorem decode_eq_reservedOpcode_iff (w : Word) :
    decode w = .reserved .reservedOpcode ↔ opField w = 0b000 ∨ opField w = 0b111 := by
  unfold decode
  split
  case h_1 hop => simp [hop, decodeFormatI]
  case h_2 hop | h_3 hop | h_4 hop | h_5 hop | h_6 hop => simp [hop]
  case h_7 h1 h2 h3 h4 h5 h6 => simpa using (opField_reserved_iff _).mpr ⟨h1, h2, h3, h4, h5, h6⟩

/-- Well-formedness by the fields of the word: the assigned opcode, and the must-be-zero bits of its format. -/
theorem wellFormed_iff (w : Word) :
    w.wellFormed = true ↔
      (opField w ≠ 0b000 ∧ opField w ≠ 0b111) ∧
      (opField w = 0b010 ∨ opField w = 0b011 ∨ opField w = 0b101 → argHigh w = false) ∧
      (opField w = 0b100 ∨ opField w = 0b110 → argHigh w = false ∧ argLow w = false) := by
  revert w; decide

theorem exists_decode_eq_command_iff (w : Word) : (∃ i, decode w = .command i) ↔ w.wellFormed = true := by
  rw [wellFormed_iff]
  unfold decode
  split
  case h_1 hop => simp [hop, decodeFormatI_eq_command]
  case h_2 hop | h_3 hop | h_5 hop => simp [hop, decodeFormatL_eq_command]
  case h_4 hop | h_6 hop => simp [hop, decodeFormatN_eq_command]
  case h_7 h1 h2 h3 h4 h5 h6 =>
    rcases (opField_reserved_iff _).mpr ⟨h1, h2, h3, h4, h5, h6⟩ with hop | hop <;> simp [hop]

theorem exists_decode_eq_reserved_iff (w : Word) : (∃ why, decode w = .reserved why) ↔ w.wellFormed = false := by
  rw [← Bool.not_eq_true, ← exists_decode_eq_command_iff]
  cases decode w <;> simp

/-- Settles O3: the two reserved opcodes by the arms of the decoder, and every reserved word as one with no command. -/
theorem reservedWords : Obligations.ReservedWords :=
  fun w => ⟨decode_eq_reservedOpcode_iff w, exists_decode_eq_reserved_iff w⟩

end Sys2Proof
end

section
/-! The assembler's text of a command (30_encoding R90). -/

namespace Sys2Proof.Machine

/-- Settles O4: a command has at most four texts, one for each value of its operands. -/
theorem assemblerReadsCommands : Obligations.AssemblerReadsCommands := by
  intro i
  cases i with
  | initializeState a b => revert a b; decide
  | tickA l => revert l; decide
  | tickB l => revert l; decide
  | setHome => decide
  | getPosition r => revert r; decide
  | pulsesMissed => decide

end Sys2Proof.Machine
end

section
/-! The transition ROM as data (30_encoding R72 to R75, R92) and the response codes (R85). -/

namespace Sys2Proof.Machine

/-- Settles O5. -/
theorem cellCodes : Obligations.CellCodes :=
  ⟨rfl, rfl, rfl, rfl, rfl, rfl, rfl⟩

/-- Settles O6: the four rows of the table. -/
theorem romContent : Obligations.RomContent := by
  refine ⟨?_, ?_, ?_, ?_⟩ <;> decide

/-- A change of channel A alone is a backward step, one of channel B alone a forward step. -/
theorem transition_adjacent (p : EncoderState) :
    transition p (p ^^^ 0b10) = .backward ∧ transition p (p ^^^ 0b01) = .forward := by
  revert p; decide

/-- Settles O7: (b) follows from (e); the others are read off the table. -/
theorem romStructure : Obligations.RomStructure := by
  refine ⟨by decide, ?_, by decide, by decide, transition_adjacent⟩
  rintro p n (rfl | rfl)
  · exact .inl (transition_adjacent p).2
  · exact .inr (transition_adjacent p).1

/-- Settles O8: the image against the cells, address by address. -/
theorem romImage_holds_cells : Obligations.RomImage :=
  ⟨rfl, by decide⟩

/-- Settles O26. -/
theorem statusCodes : Obligations.StatusCodes := by
  refine ⟨rfl, fun c => ?_, rfl, rfl, rfl, rfl, fun r => ?_⟩
  · cases c <;> rfl
  · cases r <;> decide

end Sys2Proof.Machine
end

section
/-! The response of a step: absent with no command on the port, present with any word on it (30_encoding R84, R89). -/

namespace Sys2Proof.Machine

open Sys2Proof.Safety

/-- The idle arm of `step`: `rst` low and nothing on the port. -/
theorem step_of_no_command {s : State} (hp : s.presented = ⟨false, none⟩) : step s = .next (idle s.delivered) := by
  simp [step, hp]

/-- Settles O37. -/
theorem idleStep : Obligations.IdleStep :=
  fun _ => step_of_no_command

theorem exists_accumulate_response (d : Int) (s : State) : ∃ r, (accumulate d s).response = some r := by
  rcases accumulate_cases d s with ⟨-, -, e⟩ | ⟨-, e⟩ <;> rw [e] <;> exact ⟨_, rfl⟩

theorem exec_response {i : Instr} {s t : State} (h : exec i s = .next t) : ∃ r, t.response = some r := by
  rcases exec_cases h with ⟨a, b, -, rfl⟩ | ⟨-, -, rfl⟩ | ⟨-, -, n, d, rfl⟩ | ⟨-, d, rfl⟩ | ⟨-, d, rfl⟩
  · exact ⟨_, rfl⟩
  · exact ⟨_, rfl⟩
  · exact exists_accumulate_response d s
  · exact ⟨_, rfl⟩
  · exact ⟨_, rfl⟩

/-- With `rst` low, a step with a word on the port responds, the word reserved or not. -/
theorem step_response_of_word {s t : State} {w : Word} (hp : s.presented = ⟨false, some w⟩) (h : step s = .next t) :
    ∃ r, t.response = some r := by
  rcases step_cases h with ⟨hr, -⟩ | ⟨-, hc, -⟩ | ⟨-, w', why, -, -, rfl⟩ | ⟨-, w', i, -, -, he⟩
  · simp [hp] at hr
  · simp [hp] at hc
  · exact ⟨_, rfl⟩
  · exact exec_response he

/-- The reader has exactly `words` to issue, and is granted one clock edge for each of them and no other edge comes. -/
def Waiting (words : List Word) (s : State) : Prop :=
  s.queueReader = words ∧ s.schedule = words.map fun _ => ⟨false, some .reader⟩

theorem waiting_loaded (words : List Word) (s : State) : Waiting words (loaded words s) := by
  simp [Waiting, loaded, State.load, Function.comp_def]

theorem presented_of_waiting {w : Word} {words : List Word} {s : State} (h : Waiting (w :: words) s) :
    s.presented = ⟨false, some w⟩ := by
  obtain ⟨hqueue, hschedule⟩ := h
  simp [presented_of_grant hschedule, State.queue, hqueue]

theorem step_waiting {w : Word} {words : List Word} {s t : State} (hw : Waiting (w :: words) s)
    (h : step s = .next t) : Waiting words t := by
  obtain ⟨hqueue, hschedule⟩ := hw
  constructor
  · calc t.queue .reader = s.delivered.queue .reader := step_queue h .reader
      _ = (s.queue .reader).tail := by simp [delivered_queue, hschedule]
      _ = words := by simp [State.queue, hqueue]
  · simp [step_schedule h, hschedule]

theorem responses_succ {s t : State} (k : Nat) (h : step s = .next t) :
    responses (k + 1) s = (t.response.toList ++ (responses k t).1, (responses k t).2) := by
  simp [responses, h]

theorem length_responses_of_waiting (words : List Word) (s : State) (h : Waiting words s) :
    (responses words.length s).1.length = words.length := by
  induction words generalizing s with
  | nil => rfl
  | cons w words ih =>
    obtain ⟨t, ht⟩ := exists_step_eq_next s
    obtain ⟨r, hr⟩ := step_response_of_word (presented_of_waiting h) ht
    have hrest := ih t (step_waiting h ht)
    simp [responses_succ _ ht, hr, hrest]

/-- Settles O49: the loaded words are waiting, and each step takes one and responds once. -/
theorem oneResponsePerCommand : Obligations.OneResponsePerCommand :=
  fun words s => length_responses_of_waiting words _ (waiting_loaded words s)

end Sys2Proof.Machine
end

section
/-! `initialize_state` (40_init R100, R101). -/

namespace Sys2Proof.Machine

open Sys2Proof.Safety

theorem exec_initializeState (a b : Bool) (s : State) :
    exec (.initializeState a b) s =
      .next (respond .ok 0 (advance (encoderState a b) (markInitialized s))) := rfl

/-- The word of format I that carries the two levels is the command's encoding (30_encoding R77, R80). -/
theorem encode_initializeState (a b : Bool) :
    encode (.initializeState a b) = 0b001#3 ++ (BitVec.ofBool a ++ BitVec.ofBool b) := by
  cases a <;> cases b <;> rfl

/-- Settles O11: the field lemmas of the three operations the command is made of, from any state. -/
theorem initializeStateResult : Obligations.InitializeStateResult := by
  intro a b s
  have hexec := exec_initializeState a b s
  have hdecode := (decodeIffEncode _ _).mpr (encode_initializeState a b)
  refine ⟨_, hexec, rfl, ?_, fun c => ?_, rfl, rfl, rfl, exec_environment hexec, hdecode⟩
  · simp only [respond_initialized, advance_initialized, markInitialized_initialized]
  · simp only [respond_faulted, advance_faulted, markInitialized_faulted]

end Sys2Proof.Machine
end

section
/-! Nothing is ever missed (41_edge_update R122): no command moves `missed_count` off zero or raises MissedOverflow. -/

namespace Sys2Proof.Machine

open Sys2Proof.Safety

/-- Settles O46. -/
theorem nothingMissedAtReset : Obligations.NothingMissedAtReset :=
  ⟨rfl, rfl⟩

/-- A fault other than MissedOverflow counts nothing as missed. -/
theorem raise_keeps_nothingMissed {c : Cause} {s : State} (hc : c ≠ .missedOverflow) (hn : NothingMissed s) :
    NothingMissed (raise c s) := by
  obtain ⟨hcount, hfault⟩ := hn
  exact ⟨hcount, by simp [raise_faulted, hfault, hc.symm]⟩

theorem accumulate_keeps_nothingMissed (d : Int) {s : State} (hn : NothingMissed s) :
    NothingMissed (accumulate d s) := by
  rcases accumulate_cases d s with ⟨-, -, e⟩ | ⟨-, e⟩ <;> rw [e]
  · exact hn
  · exact raise_keeps_nothingMissed (by decide) hn

theorem exec_keeps_nothingMissed {i : Instr} {s t : State} (hn : NothingMissed s) (h : exec i s = .next t) :
    NothingMissed t := by
  have ⟨_, hfault⟩ := hn
  rcases exec_cases h with ⟨a, b, -, rfl⟩ | ⟨-, -, rfl⟩ | ⟨-, -, n, d, rfl⟩ | ⟨-, d, rfl⟩ | ⟨-, d, rfl⟩
  · simpa [NothingMissed] using hn
  · exact raise_keeps_nothingMissed (by decide) hn
  · exact accumulate_keeps_nothingMissed d hn
  · exact ⟨rfl, hfault⟩
  · exact hn

theorem accumulate_response_ne_missedOvf (d : Int) (s : State) (x : Data) :
    (accumulate d s).response ≠ some ⟨.missedOvf, x⟩ := by
  rcases accumulate_cases d s with ⟨-, -, e⟩ | ⟨-, e⟩ <;> simp [e, Cause.rspStatus]

theorem exec_response_ne_missedOvf {i : Instr} {s t : State} (h : exec i s = .next t) (x : Data) :
    t.response ≠ some ⟨.missedOvf, x⟩ := by
  rcases exec_cases h with ⟨a, b, -, rfl⟩ | ⟨-, -, rfl⟩ | ⟨-, -, n, d, rfl⟩ | ⟨-, d, rfl⟩ | ⟨-, d, rfl⟩
  · simp
  · simp [Cause.rspStatus]
  · exact accumulate_response_ne_missedOvf d s x
  · simp
  · simp

/-- Settles O47, by the cases of a step. -/
theorem nothingMissedKept : Obligations.NothingMissedKept := by
  intro s t hn h
  have hn' : NothingMissed s.delivered := by simpa [NothingMissed] using hn
  rcases step_cases h with ⟨-, rfl⟩ | ⟨-, -, rfl⟩ | ⟨-, w, why, -, -, rfl⟩ | ⟨-, w, i, -, -, he⟩
  · exact ⟨⟨rfl, by simp [State.faulted]⟩, fun _ => by simp⟩
  · exact ⟨hn', fun _ => by simp⟩
  · exact ⟨raise_keeps_nothingMissed (by decide) hn', fun _ => by simp [Cause.rspStatus]⟩
  · exact ⟨exec_keeps_nothingMissed hn' he, exec_response_ne_missedOvf he⟩

end Sys2Proof.Machine
end

section
/-! The pulse accumulator and Update on one looked-up cell (41_edge_update R114 to R120). -/

namespace Sys2Proof.Machine

theorem accumulate_of_range {d : Int} {s : State} (hl : -2 ^ 63 ≤ s.position.toInt + d)
    (hu : s.position.toInt + d ≤ 2 ^ 63 - 1) :
    accumulate d s = respond .ok 0 (setPosition (BitVec.ofInt 64 (s.position.toInt + d)) s) := by
  rcases accumulate_cases d s with ⟨-, -, e⟩ | ⟨hout, -⟩
  · exact e
  · simp only [Config.positionMin, Config.positionMax] at hout
    omega

theorem accumulate_of_overflow {d : Int} {s : State}
    (hout : s.position.toInt + d < -2 ^ 63 ∨ 2 ^ 63 - 1 < s.position.toInt + d) :
    accumulate d s = raise .positionOverflow s := by
  rcases accumulate_cases d s with ⟨hl, hu, -⟩ | ⟨-, e⟩
  · simp only [Config.positionMin, Config.positionMax] at hl hu
    omega
  · exact e

/-- The pulse accumulator adds exactly, or holds. -/
theorem accumulate_position (d : Int) (s : State) :
    (accumulate d s).position.toInt = s.position.toInt + d ∨
      accumulate d s = raise .positionOverflow s := by
  rcases accumulate_cases d s with ⟨hl, hu, e⟩ | ⟨-, e⟩
  · exact .inl (by simp [e, toInt_ofInt_of_range hl hu])
  · exact .inr e

theorem accumulate_position_of_range {d : Int} {s : State} (hl : -2 ^ 63 ≤ s.position.toInt + d)
    (hu : s.position.toInt + d ≤ 2 ^ 63 - 1) :
    (accumulate d s).position.toInt = s.position.toInt + d := by
  rw [accumulate_of_range hl hu]
  exact toInt_ofInt_of_range hl hu

/-- Nothing was held where POS_OVF is clear afterwards. -/
theorem accumulate_position_of_not_faulted {d : Int} {s : State}
    (h : (accumulate d s).faulted .positionOverflow = false) :
    (accumulate d s).position.toInt = s.position.toInt + d := by
  rcases accumulate_position d s with e | e
  · exact e
  · simp [e, raise_faulted] at h

/-- An accumulation in range and the advance write `prior_state`, `position` and the response, and nothing else. -/
theorem advance_accumulate_of_range (n : EncoderState) {d : Int} {s : State}
    (hl : -2 ^ 63 ≤ s.position.toInt + d) (hu : s.position.toInt + d ≤ 2 ^ 63 - 1) :
    advance n (accumulate d s) =
      { s with priorState := n, position := (accumulate d s).position, response := some ⟨.ok, 0⟩ } := by
  rw [accumulate_of_range hl hu]
  rfl

/-- An accumulation that would cross a bound and the advance write `prior_state`, POS_OVF and the response, and nothing
else. -/
theorem advance_accumulate_of_overflow (n : EncoderState) {d : Int} {s : State}
    (hout : s.position.toInt + d < -2 ^ 63 ∨ 2 ^ 63 - 1 < s.position.toInt + d) :
    advance n (accumulate d s) =
      { s with priorState := n, status := s.status ||| 0b01000, response := some ⟨.posOvf, 0⟩ } := by
  rw [accumulate_of_overflow hout]
  rfl

theorem accumulate_zero (s : State) : accumulate 0 s = respond .ok 0 s := by
  obtain ⟨hl, hu⟩ := position_range s.position
  simp only [Config.positionMin, Config.positionMax] at hl hu
  rw [accumulate_of_range (by omega) (by omega), Int.add_zero, BitVec.ofInt_toInt]
  rfl

/-- The step that a transition stands for is the signed value of its cell (30_encoding R72). -/
theorem update_of_step {n : EncoderState} {s : State} {d : Int}
    (h : d = 0 ∧ transition s.priorState n = .noChange ∨ d = 1 ∧ transition s.priorState n = .forward ∨
      d = -1 ∧ transition s.priorState n = .backward) :
    update n s = advance n (accumulate d s) := by
  have hcell := cell_toInt s.priorState n
  rcases h with ⟨rfl, ht⟩ | ⟨rfl, ht⟩ | ⟨rfl, ht⟩ <;>
    · simp only [ht, reduceCtorEq, true_and, false_and, or_false, false_or] at hcell
      rw [update_of_not_missed (by simp [ht]), hcell]

/-- Settles O9: Update on a step outcome is one accumulation, in range or at a bound. -/
theorem positionArithmetic : Obligations.PositionArithmetic := by
  intro s n
  constructor
  · intro d hd hl hu
    rw [update_of_step hd]
    exact ⟨accumulate_position_of_range hl hu, advance_accumulate_of_range n hl hu⟩
  · rintro (⟨hpos, ht⟩ | ⟨hpos, ht⟩)
    · rw [update_of_step (.inr (.inl ⟨rfl, ht⟩))]
      exact advance_accumulate_of_overflow n (.inr (by omega))
    · rw [update_of_step (.inr (.inr ⟨rfl, ht⟩))]
      exact advance_accumulate_of_overflow n (.inl (by omega))

theorem transition_antidiagonal (p : EncoderState) : transition p (p ^^^ 0b11) = .missed := by
  obtain ⟨-, -, hanti, -⟩ := romStructure
  exact hanti p

/-- Settles O10: Update on an anti-diagonal cell is the missed-edge detector, below its bound or at it. -/
theorem missedArithmetic : Obligations.MissedArithmetic := by
  intro s
  refine ⟨_, update_of_missed (transition_antidiagonal s.priorState), ?_⟩
  rcases countMissed_cases s with ⟨hlt, e⟩ | ⟨hbound, e⟩ <;> rw [e]
  · simp only [Config.missedMax] at hlt
    refine ⟨fun _ => ⟨?_, rfl⟩, fun hbound => by omega⟩
    exact BitVec.toNat_add_of_lt (by simpa using by omega)
  · simp only [Config.missedMax] at hbound
    exact ⟨fun hlt => by omega, fun _ => rfl⟩

end Sys2Proof.Machine
end

section
/-! The two ticks (41_edge_update R110 to R113, R116, R119, R121, R125, R126). -/

namespace Sys2Proof.Machine

open Sys2Proof.Safety

/-! ### The candidate state -/

theorem candidateA_eq (l : Bool) (p : EncoderState) :
    candidateA l p = BitVec.ofBool l ++ p.extractLsb 0 0 := by
  revert l p; decide

theorem candidateB_eq (l : Bool) (p : EncoderState) :
    candidateB l p = p.extractLsb 1 1 ++ BitVec.ofBool l := by
  revert l p; decide

theorem candidateA_of_stored {l : Bool} {p : EncoderState} (h : l = levelA p) : candidateA l p = p := by
  revert l p; decide

theorem candidateB_of_stored {l : Bool} {p : EncoderState} (h : l = levelB p) : candidateB l p = p := by
  revert l p; decide

/-- Settles O18: each clause read off the ROM for the two levels and the four prior states. -/
theorem ticksNeverMiss : Obligations.TicksNeverMiss := by
  intro l p
  refine ⟨?_, ?_, ?_, ?_, ?_, ?_⟩ <;> revert l p <;> decide

/-! ### A rejected tick -/

/-- Settles O15. -/
theorem tickBeforeInitialize : Obligations.TickBeforeInitialize := by
  intro l s hi
  constructor
  · calc exec (.tickA l) s = .next (edge (candidateA l s.priorState) s) := rfl
      _ = .next (raise .preconditionViolation s) := by rw [edge_rejected _ hi]
  · calc exec (.tickB l) s = .next (edge (candidateB l s.priorState) s) := rfl
      _ = .next (raise .preconditionViolation s) := by rw [edge_rejected _ hi]

/-! ### An accepted tick -/

section

variable {l : Bool} {s : State}

theorem exec_tickA (l : Bool) (hi : s.initialized = true) :
    exec (.tickA l) s =
      .next (advance (candidateA l s.priorState) (accumulate (if l = levelA s.priorState then 0 else -1) s)) :=
  execTickA_accepted l hi

theorem exec_tickB (l : Bool) (hi : s.initialized = true) :
    exec (.tickB l) s =
      .next (advance (candidateB l s.priorState) (accumulate (if l = levelB s.priorState then 0 else 1) s)) :=
  execTickB_accepted l hi

/-- A tick with the stored level lands on the diagonal: it only responds. -/
theorem exec_tickA_of_stored (hi : s.initialized = true) (hl : l = levelA s.priorState) :
    exec (.tickA l) s = .next (respond .ok 0 s) := by
  rw [exec_tickA l hi, if_pos hl, accumulate_zero, candidateA_of_stored hl]
  rfl

theorem exec_tickB_of_stored (hi : s.initialized = true) (hl : l = levelB s.priorState) :
    exec (.tickB l) s = .next (respond .ok 0 s) := by
  rw [exec_tickB l hi, if_pos hl, accumulate_zero, candidateB_of_stored hl]
  rfl

theorem exec_tickA_of_changed (hi : s.initialized = true) (hl : l ≠ levelA s.priorState) :
    exec (.tickA l) s = .next (advance (BitVec.ofBool l ++ s.priorState.extractLsb 0 0) (accumulate (-1) s)) := by
  rw [exec_tickA l hi, if_neg hl, candidateA_eq]

theorem exec_tickB_of_changed (hi : s.initialized = true) (hl : l ≠ levelB s.priorState) :
    exec (.tickB l) s = .next (advance (s.priorState.extractLsb 1 1 ++ BitVec.ofBool l) (accumulate 1 s)) := by
  rw [exec_tickB l hi, if_neg hl, candidateB_eq]

end

/-- Settles O12: the stored level, or the one step off the lower bound. -/
theorem tickAResult : Obligations.TickAResult := by
  intro l s hi hbound
  by_cases hl : l = levelA s.priorState
  · refine ⟨_, exec_tickA_of_stored hi hl, ?_, ?_, rfl, rfl, rfl, rfl, rfl, rfl, rfl⟩
    · rw [← candidateA_eq, candidateA_of_stored hl, respond_priorState]
    · simp [hl]
  · have hmin := BitVec.le_toInt s.position
    have hmax := BitVec.toInt_lt (x := s.position)
    have hne := hbound.resolve_left hl
    have hlower : -2 ^ 63 ≤ s.position.toInt + -1 := by omega
    have hupper : s.position.toInt + -1 ≤ 2 ^ 63 - 1 := by omega
    have hexec := exec_tickA_of_changed hi hl
    rw [advance_accumulate_of_range _ hlower hupper] at hexec
    refine ⟨_, hexec, rfl, ?_, rfl, rfl, rfl, rfl, rfl, rfl, rfl⟩
    rw [if_neg hl]
    exact accumulate_position_of_range hlower hupper

/-- Settles O13: the stored level, or the one step off the upper bound. -/
theorem tickBResult : Obligations.TickBResult := by
  intro l s hi hbound
  by_cases hl : l = levelB s.priorState
  · refine ⟨_, exec_tickB_of_stored hi hl, ?_, ?_, rfl, rfl, rfl, rfl, rfl, rfl, rfl⟩
    · rw [← candidateB_eq, candidateB_of_stored hl, respond_priorState]
    · simp [hl]
  · have hmin := BitVec.le_toInt s.position
    have hmax := BitVec.toInt_lt (x := s.position)
    have hne := hbound.resolve_left hl
    have hlower : -2 ^ 63 ≤ s.position.toInt + 1 := by omega
    have hupper : s.position.toInt + 1 ≤ 2 ^ 63 - 1 := by omega
    have hexec := exec_tickB_of_changed hi hl
    rw [advance_accumulate_of_range _ hlower hupper] at hexec
    refine ⟨_, hexec, rfl, ?_, rfl, rfl, rfl, rfl, rfl, rfl, rfl⟩
    rw [if_neg hl]
    exact accumulate_position_of_range hlower hupper

/-- Settles O16: the step of the changed level does not fit. -/
theorem tickAtBound : Obligations.TickAtBound := by
  intro l s hi
  constructor
  · intro hl hpos
    rw [exec_tickA_of_changed hi hl, advance_accumulate_of_overflow _ (.inl (by omega))]
  · intro hl hpos
    rw [exec_tickB_of_changed hi hl, advance_accumulate_of_overflow _ (.inr (by omega))]

/-- Settles O17: the first tick, held or not, leaves its own level stored. -/
theorem repeatedTickIgnored : Obligations.RepeatedTickIgnored := by
  intro l s hi
  constructor
  · exact ⟨_, exec_tickA l hi, exec_tickA_of_stored (by simpa using hi) (by simp)⟩
  · exact ⟨_, exec_tickB l hi, exec_tickB_of_stored (by simpa using hi) (by simp)⟩

/-- Everything a tick can do: it is rejected, or it accumulates a step of at most one. -/
theorem exec_tick_cases {l : Bool} {i : Instr} (h : i = .tickA l ∨ i = .tickB l) (s : State) :
    exec i s = .next (raise .preconditionViolation s) ∨
      ∃ n d, (d = -1 ∨ d = 0 ∨ d = 1) ∧ exec i s = .next (advance n (accumulate d s)) := by
  cases hi : s.initialized with
  | false =>
    obtain ⟨hA, hB⟩ := tickBeforeInitialize l s hi
    rcases h with rfl | rfl
    · exact .inl hA
    · exact .inl hB
  | true =>
    rcases h with rfl | rfl
    · exact .inr ⟨_, _, by split <;> simp, exec_tickA l hi⟩
    · exact .inr ⟨_, _, by split <;> simp, exec_tickB l hi⟩

/-- Settles O24: `missed_count` never moves, and the accumulator adds its step or holds. -/
theorem tickBounds : Obligations.TickBounds := by
  intro l i h s
  rcases exec_tick_cases h s with e | ⟨n, d, hd, e⟩
  · exact ⟨_, e, .inr (.inl (by simp)), .inl rfl, .inl rfl⟩
  · have hcount := accumulate_missedCount d s
    refine ⟨_, e, ?_, .inl (congrArg _ hcount), .inr hcount⟩
    rw [advance_position]
    rcases accumulate_position d s with hadd | hhold
    · omega
    · simp [hhold]

/-! ### The table of R126 -/

/-- The row's word is a tick whose candidate state, looked-up address and step are the row's. -/
abbrev IsTickRow (row : EncoderState × Word × EncoderState × RomAddr × Int) : Prop :=
  romAddress row.1 row.2.2.1 = row.2.2.2.1 ∧ ∃ l,
    (decode row.2.1 = .command (.tickA l) ∧ row.2.2.1 = candidateA l row.1 ∧
      row.2.2.2.2 = if l = levelA row.1 then 0 else -1) ∨
    (decode row.2.1 = .command (.tickB l) ∧ row.2.2.1 = candidateB l row.1 ∧
      row.2.2.2.2 = if l = levelB row.1 then 0 else 1)

/-- The command of a row accumulates the row's step and advances to the row's new state. -/
theorem exec_of_isTickRow {row : EncoderState × Word × EncoderState × RomAddr × Int} {s : State}
    (h : IsTickRow row) (hp : s.priorState = row.1) (hi : s.initialized = true) :
    ∃ i, decode row.2.1 = .command i ∧ exec i s = .next (advance row.2.2.1 (accumulate row.2.2.2.2 s)) ∧
      -1 ≤ row.2.2.2.2 ∧ row.2.2.2.2 ≤ 1 := by
  obtain ⟨-, l, ⟨hd, hn, hstep⟩ | ⟨hd, hn, hstep⟩⟩ := h
  · exact ⟨_, hd, by rw [hn, hstep, ← hp]; exact exec_tickA l hi, by split at hstep <;> omega⟩
  · exact ⟨_, hd, by rw [hn, hstep, ← hp]; exact exec_tickB l hi, by split at hstep <;> omega⟩

/-- Settles O14: each of the sixteen rows is a tick's, and away from the bounds its step is in range. -/
theorem tickTable : Obligations.TickTable := by
  intro row hmem s hp hi hl hu
  have hrow : IsTickRow row := by clear hp; revert row; decide
  obtain ⟨i, hd, hexec, hlower, hupper⟩ := exec_of_isTickRow hrow hp hi
  have hl' : -2 ^ 63 ≤ s.position.toInt + row.2.2.2.2 := by omega
  have hu' : s.position.toInt + row.2.2.2.2 ≤ 2 ^ 63 - 1 := by omega
  obtain ⟨haddress, -⟩ := hrow
  exact ⟨i, _, hd, hexec, haddress, advance_accumulate_of_range _ hl' hu', accumulate_position_of_range hl' hu'⟩

end Sys2Proof.Machine
end

section
/-! Monitoring (41_edge_update R123; 60_exceptions R172): what one of its steps can do, where `position` is going, and the runs
made of such steps. -/

namespace Sys2Proof.Machine

open Sys2Proof.Safety

/-! ### The word on the port and the queues -/

theorem delivered_queue_of_no_command {s : State} (h : s.presented.cmd = none) (c : Context) :
    s.delivered.queue c = s.queue c := by
  rw [delivered_queue]
  split
  case isTrue hgrant =>
    obtain ⟨⟨rst, g⟩, hslot, rfl⟩ := Option.bind_eq_some_iff.mp hgrant
    obtain ⟨slots, hschedule⟩ := List.head?_eq_some_iff.mp hslot
    rw [presented_of_grant hschedule, List.head?_eq_none_iff] at h
    simp [h]
  case isFalse => rfl

/-- A word on the port is the first of one context's words; the other contexts keep theirs. -/
theorem queue_of_presented {s : State} {w : Word} (h : s.presented.cmd = some w) :
    ∃ c, s.queue c = w :: s.delivered.queue c ∧ ∀ c', c' ≠ c → s.delivered.queue c' = s.queue c' := by
  match hschedule : s.schedule with
  | [] => simp [State.presented, hschedule] at h
  | ⟨_, none⟩ :: _ => simp [State.presented, hschedule] at h
  | ⟨_, some c⟩ :: _ =>
    rw [presented_of_grant hschedule] at h
    obtain ⟨words, hqueue⟩ := List.head?_eq_some_iff.mp h
    refine ⟨c, by simp [delivered_queue, hschedule, hqueue], fun c' hne => ?_⟩
    simp [delivered_queue, hschedule, hne.symm]

/-- No word is added to a queue by a step. -/
theorem mem_queue_of_step {s t : State} {c : Context} {w : Word} (h : step s = .next t) (hw : w ∈ t.queue c) :
    w ∈ s.queue c := by
  rw [step_queue h, delivered_queue] at hw
  split at hw
  · exact List.mem_of_mem_tail hw
  · exact hw

/-! ### STATUS bits over a step -/

theorem getLsbD_status_of_step {s t : State} {n : Nat} (h : step s = .next t) (hrst : s.presented.rst = false)
    (hn : s.status.getLsbD n = true) : t.status.getLsbD n = true := by
  obtain ⟨t', h', hsticky⟩ := statusBitsSticky s hrst
  cases h.symm.trans h'
  rw [← hsticky, BitVec.getLsbD_and, Bool.and_eq_true] at hn
  obtain ⟨-, hkept⟩ := hn
  exact hkept

/-! ### Monitoring -/

/-- The words a context issues under Monitoring. -/
def conforms : Context → Word → Prop
  | .channelA, w => (tickLevelA w).isSome
  | .channelB, w => (tickLevelB w).isSome
  | .reader, w => readsOnly w = true

theorem monitoring_iff {s : State} :
    Monitoring s ↔ s.initialized = true ∧ (∀ c, ∀ w ∈ s.queue c, conforms c w) ∧
      ∀ slot ∈ s.schedule, slot.rst = false := by
  constructor
  · rintro ⟨hi, hA, hB, hR, hslots⟩
    refine ⟨hi, fun c => ?_, hslots⟩
    cases c with
    | channelA => exact hA
    | channelB => exact hB
    | reader => exact hR
  · rintro ⟨hi, hwords, hslots⟩
    exact ⟨hi, hwords .channelA, hwords .channelB, hwords .reader, hslots⟩

/-- No reset is presented under Monitoring. -/
theorem presented_rst_of_monitoring {s : State} (hm : Monitoring s) : s.presented.rst = false := by
  obtain ⟨-, -, hslots⟩ := monitoring_iff.mp hm
  match hschedule : s.schedule with
  | [] => simp [State.presented, hschedule]
  | ⟨rst, none⟩ :: _ => simpa [State.presented, hschedule] using hslots ⟨rst, none⟩ (by simp [hschedule])
  | ⟨rst, some c⟩ :: _ => simpa [State.presented, hschedule] using hslots ⟨rst, some c⟩ (by simp [hschedule])

/-- Every step of Monitoring, an overflow or not, stays in Monitoring. -/
theorem monitoring_step {s t : State} (hm : Monitoring s) (h : step s = .next t) : Monitoring t := by
  have hrst := presented_rst_of_monitoring hm
  obtain ⟨hi, hwords, hslots⟩ := monitoring_iff.mp hm
  refine monitoring_iff.mpr ⟨getLsbD_status_of_step h hrst hi, fun c w hw => ?_, fun slot hslot => ?_⟩
  · exact hwords c w (mem_queue_of_step h hw)
  · rw [step_schedule h] at hslot
    exact hslots slot (List.mem_of_mem_tail hslot)

section

variable {s : State} {w : Word} {l : Bool} (hp : s.presented = ⟨false, some w⟩)
include hp

theorem step_of_tickA (hl : tickLevelA w = some l) (hi : s.initialized = true) :
    step s = .next (advance (candidateA l s.priorState)
      (accumulate (if l = levelA s.priorState then 0 else -1) s.delivered)) := by
  rw [step_of_command hp (tickLevelA_eq_some.mp hl), exec_tickA l (by simpa using hi), delivered_priorState]

theorem step_of_tickB (hl : tickLevelB w = some l) (hi : s.initialized = true) :
    step s = .next (advance (candidateB l s.priorState)
      (accumulate (if l = levelB s.priorState then 0 else 1) s.delivered)) := by
  rw [step_of_command hp (tickLevelB_eq_some.mp hl), exec_tickB l (by simpa using hi), delivered_priorState]

theorem step_of_readsOnly (hw : readsOnly w = true) : ∃ d, step s = .next (respond .ok d s.delivered) := by
  simp only [readsOnly, Bool.or_eq_true, beq_iff_eq] at hw
  rcases hw with hd | hd
  · exact ⟨_, step_of_command hp hd⟩
  · exact ⟨_, step_of_command hp hd⟩

end

/-- Everything a step of Monitoring can do: nothing to the registers that `position` depends on and to the edge contexts'
words, or the next accepted tick of one edge context. -/
theorem monitoring_step_cases {s t : State} (hm : Monitoring s) (h : step s = .next t) :
    (t.priorState = s.priorState ∧ t.position = s.position ∧ t.queueA = s.queueA ∧ t.queueB = s.queueB) ∨
    (∃ w l, tickLevelA w = some l ∧ s.queueA = w :: t.queueA ∧ t.queueB = s.queueB ∧
      t = advance (candidateA l s.priorState)
        (accumulate (if l = levelA s.priorState then 0 else -1) s.delivered)) ∨
    (∃ w l, tickLevelB w = some l ∧ s.queueB = w :: t.queueB ∧ t.queueA = s.queueA ∧
      t = advance (candidateB l s.priorState)
        (accumulate (if l = levelB s.priorState then 0 else 1) s.delivered)) := by
  have hrst := presented_rst_of_monitoring hm
  obtain ⟨hi, hwords, -⟩ := monitoring_iff.mp hm
  have hqueueA : t.queueA = s.delivered.queueA := step_queue h .channelA
  have hqueueB : t.queueB = s.delivered.queueB := step_queue h .channelB
  rw [hqueueA, hqueueB]
  match hcmd : s.presented.cmd with
  | none =>
    have hp : s.presented = ⟨false, none⟩ := by rw [← hrst, ← hcmd]
    cases (step_of_no_command hp).symm.trans h
    exact .inl ⟨delivered_priorState s, delivered_position s, delivered_queue_of_no_command hcmd .channelA,
      delivered_queue_of_no_command hcmd .channelB⟩
  | some w =>
    have hp : s.presented = ⟨false, some w⟩ := by rw [← hrst, ← hcmd]
    obtain ⟨c, hqueue, hothers⟩ := queue_of_presented hcmd
    have hw := hwords c w (by simp [hqueue])
    cases c with
    | channelA =>
      obtain ⟨l, hl⟩ := Option.isSome_iff_exists.mp hw
      cases (step_of_tickA hp hl hi).symm.trans h
      exact .inr (.inl ⟨w, l, hl, hqueue, hothers .channelB (by decide), rfl⟩)
    | channelB =>
      obtain ⟨l, hl⟩ := Option.isSome_iff_exists.mp hw
      cases (step_of_tickB hp hl hi).symm.trans h
      exact .inr (.inr ⟨w, l, hl, hqueue, hothers .channelA (by decide), rfl⟩)
    | reader =>
      obtain ⟨d, hd⟩ := step_of_readsOnly hp hw
      cases hd.symm.trans h
      exact .inl ⟨delivered_priorState s, delivered_position s, hothers .channelA (by decide),
        hothers .channelB (by decide)⟩

/-! ### Where `position` is going -/

/-- The next tick of a channel counts when its level is not the stored one, and its level is then the stored one. -/
theorem changes_cons {tickLevel : Word → Option Bool} {w : Word} {l : Bool} (h : tickLevel w = some l)
    (stored : Bool) (words : List Word) :
    changes tickLevel stored (w :: words) = (if l = stored then 0 else 1) + changes tickLevel l words := by
  simp [changes, h]

theorem expectedPosition_step {s t : State} (hm : Monitoring s) (h : step s = .next t)
    (hf : t.faulted .positionOverflow = false) : expectedPosition t = expectedPosition s := by
  unfold expectedPosition
  rcases monitoring_step_cases hm h with ⟨hprior, hpos, hA, hB⟩ | ⟨w, l, hl, hA, hB, rfl⟩ | ⟨w, l, hl, hB, hA, rfl⟩
  · rw [hprior, hpos, hA, hB]
  · rw [advance_faulted] at hf
    rw [hA, hB, changes_cons hl, advance_priorState, levelA_candidateA, levelB_candidateA, advance_position,
      accumulate_position_of_not_faulted hf, delivered_position]
    split <;> omega
  · rw [advance_faulted] at hf
    rw [hA, hB, changes_cons hl, advance_priorState, levelA_candidateB, levelB_candidateB, advance_position,
      accumulate_position_of_not_faulted hf, delivered_position]
    omega

/-- Settles O50. -/
theorem expectedPositionKept : Obligations.ExpectedPositionKept :=
  fun _ _ hm h hf => ⟨monitoring_step hm h, expectedPosition_step hm h hf⟩

/-! ### Runs -/

theorem run_succ {s u : State} (k : Nat) (h : step s = .next u) : core.run (k + 1) s = core.run k u := by
  have h' : core.step s = .next u := h
  simp only [Host.Core.run, h']

/-- A run of Monitoring that ends with POS_OVF clear had it clear throughout and kept where `position` is going. -/
theorem expectedPosition_run {s t : State} (k : Nat) (hm : Monitoring s) (h : core.run k s = .next t)
    (hf : t.faulted .positionOverflow = false) :
    s.faulted .positionOverflow = false ∧ expectedPosition t = expectedPosition s := by
  induction k generalizing s with
  | zero => cases h; exact ⟨hf, rfl⟩
  | succ k ih =>
    obtain ⟨u, hu⟩ := exists_step_eq_next s
    rw [run_succ k hu] at h
    obtain ⟨hfu, hrest⟩ := ih (monitoring_step hm hu) h
    refine ⟨?_, hrest.trans (expectedPosition_step hm hu hfu)⟩
    rw [Bool.eq_false_iff] at hfu ⊢
    exact fun hfs => hfu (getLsbD_status_of_step hu (presented_rst_of_monitoring hm) hfs)

theorem expectedPosition_of_issued {s : State} (hA : s.queueA = []) (hB : s.queueB = []) :
    expectedPosition s = s.position.toInt := by
  simp [expectedPosition, hA, hB, changes]

/-- Settles O51: with both edge contexts' words issued, `position` is where it was going. -/
theorem interleavingResult : Obligations.InterleavingResult := by
  intro k s t hm h hf hA hB
  obtain ⟨-, hkept⟩ := expectedPosition_run k hm h hf
  rw [← expectedPosition_of_issued hA hB, hkept]
  rfl

end Sys2Proof.Machine
end

section
/-! The home and read commands (42_home_read R140 to R145), and pulses to radians (R146 to R148). -/

namespace Sys2Proof.Machine

/-! ### What each command does -/

theorem exec_setHome (s : State) : exec .setHome s = .next (respond .ok 0 (clearCounters s)) := rfl

theorem exec_getPosition_false (s : State) : exec (.getPosition false) s = .next (respond .ok s.position s) := rfl

theorem exec_getPosition_true (s : State) :
    exec (.getPosition true) s = .next (respond .ok s.position (clearCounters s)) := rfl

theorem exec_pulsesMissed (s : State) : exec .pulsesMissed s = .next (respond .ok s.missedCount s) := rfl

/-- Clearing and responding write the two counters and the response, and nothing else. -/
theorem respond_clearCounters (st : RspStatus) (d : Data) (s : State) :
    respond st d (clearCounters s) = { s with position := 0, missedCount := 0, response := some ⟨st, d⟩ } := rfl

/-- Settles O19. -/
theorem setHomeResult : Obligations.SetHomeResult := by
  refine ⟨decode_encode .setHome, fun s => ?_⟩
  rw [exec_setHome, respond_clearCounters]

/-- Settles O20: `reset` decides whether the response is given over the state itself or over the cleared one. -/
theorem getPositionResult : Obligations.GetPositionResult := by
  refine ⟨decode_encode (.getPosition false), decode_encode (.getPosition true), fun s => ⟨?_, ?_⟩⟩
  · exact exec_getPosition_false s
  · rw [exec_getPosition_true, respond_clearCounters]

/-- Settles O21. -/
theorem pulsesMissedResult : Obligations.PulsesMissedResult :=
  ⟨decode_encode .pulsesMissed, exec_pulsesMissed⟩

/-! ### A read right after a clear -/

/-- The reader turns a response of 0 into zero radians, whatever `CPR` is. -/
theorem radians_respond_zero (c : Cpr) (st : RspStatus) (s : State) :
    Decoder.radians ⟨c, respond st 0 s⟩ = some 0 := by
  simp [Decoder.radians, radiansFn]

theorem read_of_position_eq_zero {s : State} (h : s.position = 0) (c : Cpr) :
    ∃ v, exec (.getPosition false) s = .next v ∧ v.response = some ⟨.ok, 0⟩ ∧
      Decoder.radians ⟨c, v⟩ = some 0 := by
  refine ⟨respond .ok 0 s, ?_, respond_response .ok 0 s, radians_respond_zero c .ok s⟩
  rw [exec_getPosition_false, h]

/-- Settles O22: both commands clear and then respond, so they differ in the response and each leaves `position` zero. -/
theorem homeThenRead : Obligations.HomeThenRead := by
  intro s c
  have hread (d : Data) := read_of_position_eq_zero (s := respond .ok d (clearCounters s)) rfl c
  exact ⟨_, _, exec_setHome s, exec_getPosition_true s, rfl, rfl, hread 0, hread s.position⟩

/-! ### The real-number formula -/

/-- A legal `CPR` may divide: it is not zero as a real number either. -/
theorem cpr_toReal_ne_zero (c : Cpr) : (c.val.toNat : ℝ) ≠ 0 :=
  Nat.cast_ne_zero.mpr (BitVec.toNat_ne_iff_ne.mpr c.legal)

theorem isRadians_iff (c : Cpr) (p : Int) (x : ℝ) :
    IsRadians p c x ↔ x * c.val.toNat = p * (2 * Real.pi) := by
  rw [IsRadians, div_mul_eq_mul_div, eq_div_iff (cpr_toReal_ne_zero c)]

/-- Settles O43: the named points by the formula with the division cleared. -/
theorem radiansFormula : Obligations.RadiansFormula := by
  refine ⟨isRadians_iff, fun c => ?_, fun c p x h => ?_, fun c => ?_, fun c hc => ?_⟩
  · simp [isRadians_iff]
  · rw [isRadians_iff] at h ⊢
    rw [Int.cast_neg, neg_mul, neg_mul, h]
  · rw [isRadians_iff, Int.cast_natCast, mul_comm]
  · have hfour : c.val.toNat = 4 := congrArg BitVec.toNat hc
    rw [isRadians_iff, hfour]
    push_cast
    ring

end Sys2Proof.Machine
end

section
/-! The exceptions (60_exceptions R160 to R168): fault entry, the one fault a command can raise, and the reserved words. -/

namespace Sys2Proof.Machine

/-- Settles O25. -/
theorem faultEntry : Obligations.FaultEntry := by
  intro c s
  refine ⟨?_, raise_initialized c s, fun c' hne => ?_, rfl, rfl⟩
  · simp [raise_faulted]
  · simp [raise_faulted, hne]

/-! ### At most one fault to a command -/

/-- From `s`, `t` is an `OK` response with every fault bit kept, or one cause's response with that cause's bit set and every
other fault bit kept (60_exceptions R168). -/
def AtMostOneFault (s t : State) : Prop :=
  (∃ d, t.response = some ⟨.ok, d⟩ ∧ ∀ c, t.faulted c = s.faulted c) ∨
    ∃ c, t.response = some ⟨c.rspStatus, 0⟩ ∧ t.faulted c = true ∧ ∀ c', c' ≠ c → t.faulted c' = s.faulted c'

/-- Responding `OK` raises nothing beyond what was done to the fault bits before it. -/
theorem atMostOneFault_respond_ok {s u : State} (h : ∀ c, u.faulted c = s.faulted c) (d : Data) :
    AtMostOneFault s (respond .ok d u) :=
  .inl ⟨d, rfl, h⟩

theorem atMostOneFault_raise (c : Cause) (s : State) : AtMostOneFault s (raise c s) := by
  obtain ⟨hset, -, hothers, hresponse, -⟩ := faultEntry c s
  exact .inr ⟨c, hresponse, hset, hothers⟩

theorem atMostOneFault_accumulate (d : Int) (s : State) : AtMostOneFault s (accumulate d s) := by
  rcases accumulate_cases d s with ⟨-, -, e⟩ | ⟨-, e⟩ <;> rw [e]
  · exact atMostOneFault_respond_ok (setPosition_faulted _ · s) 0
  · exact atMostOneFault_raise .positionOverflow s

theorem atMostOneFault_advance {s t : State} (n : EncoderState) (h : AtMostOneFault s t) :
    AtMostOneFault s (advance n t) := by
  simpa [AtMostOneFault] using h

theorem exec_atMostOneFault {i : Instr} {s t : State} (h : exec i s = .next t) : AtMostOneFault s t := by
  rcases exec_cases h with ⟨a, b, -, rfl⟩ | ⟨-, -, rfl⟩ | ⟨-, -, n, d, rfl⟩ | ⟨-, d, rfl⟩ | ⟨-, d, rfl⟩
  · exact atMostOneFault_respond_ok (markInitialized_faulted · s) 0
  · exact atMostOneFault_raise .preconditionViolation s
  · exact atMostOneFault_advance n (atMostOneFault_accumulate d s)
  · exact atMostOneFault_respond_ok (clearCounters_faulted · s) d
  · exact atMostOneFault_respond_ok (fun _ => rfl) d

/-- Settles O27, by the cases of a command: each ends in one `OK` response or in one fault entry. -/
theorem oneFaultPerCommand : Obligations.OneFaultPerCommand := by
  intro i s
  obtain ⟨t, h⟩ := exists_exec_eq_next i s
  exact ⟨t, h, exec_atMostOneFault h⟩

/-! ### Reserved words -/

/-- The reserved arm of `step`: `rst` low and a reserved word on the port, whatever the reason it is reserved. -/
theorem step_of_reserved {s : State} {w : Word} {why : ReservedWhy} (hp : s.presented = ⟨false, some w⟩)
    (hd : decode w = .reserved why) : step s = .next (raise .illegalCommand s.delivered) := by
  simp [step, hp, hd, rejectReserved]

/-- Settles O28: an ill-formed word is a reserved one, and its step is one fault entry. -/
theorem reservedWordStep : Obligations.ReservedWordStep := by
  intro s w hp hw
  obtain ⟨why, hd⟩ := (exists_decode_eq_reserved_iff w).mpr hw
  refine ⟨_, step_of_reserved hp hd, ?_, rfl, ?_, ?_, ?_⟩
  · rw [raise_status, delivered_status]
    rfl
  · rw [raise_priorState, delivered_priorState]
  · rw [raise_position, delivered_position]
  · rw [raise_missedCount, delivered_missedCount]

/-! ### Construct -/

theorem construct_of_ne_zero {cpr : BitVec 32} (h : cpr ≠ 0) :
    construct cpr = .next ⟨⟨cpr, h⟩, State.reset⟩ :=
  dif_neg h

/-- Settles O41. -/
theorem constructChecksCpr : Obligations.ConstructChecksCpr :=
  ⟨rfl, fun _ h => ⟨_, construct_of_ne_zero h, rfl, rfl⟩⟩

end Sys2Proof.Machine
end

section
/-! Steps and interleavings (60_exceptions R170, R172, R176): the machine always steps, any context may be next, and the order
of the same ticks does not matter. -/

namespace Sys2Proof.Machine

open Sys2Proof.Safety

/-- Settles O38. -/
theorem alwaysAStep : Obligations.AlwaysAStep :=
  exists_step_eq_next

/-! ### Another schedule over the same queues -/

@[simp] theorem queue_reschedule (s : State) (slots : List Slot) (c : Context) :
    { s with schedule := slots }.queue c = s.queue c := by
  cases c <;> rfl

theorem sameEnvironment_symm {s t : State} (h : SameEnvironment s t) : SameEnvironment t s := by
  obtain ⟨hA, hB, hReader, hschedule⟩ := h
  exact ⟨hA.symm, hB.symm, hReader.symm, hschedule.symm⟩

/-- Settles O34: the slot that grants the context gives it the next step, which takes its first word alone, and a command
word runs on the state that delivery left. -/
theorem anyContextMayGoNext : Obligations.AnyContextMayGoNext := by
  intro s c w words hqueue
  obtain ⟨hp, t, ht, htaken, -, hothers⟩ := deliveredExactlyOnce { s with schedule := [⟨false, some c⟩] }
    false c w words [] rfl (by rw [queue_reschedule, hqueue])
  refine ⟨t, ⟨_, ht⟩, htaken, fun c' hne => ?_, fun i hd => ?_⟩
  · rw [hothers c' hne, queue_reschedule]
  · exact ⟨_, sameEnvironment_symm (step_environment ht), delivered_priorState _, delivered_position _,
      delivered_missedCount _, delivered_status _, (step_of_command hp hd).symm.trans ht⟩

/-- Monitoring asks of the schedule only that no reset is ahead. -/
theorem monitoring_reschedule {s : State} {slots : List Slot} (hm : Monitoring s)
    (hslots : ∀ slot ∈ slots, slot.rst = false) : Monitoring { s with schedule := slots } := by
  obtain ⟨hi, hA, hB, hReader, -⟩ := hm
  exact ⟨hi, hA, hB, hReader, hslots⟩

/-- Settles O52: where `position` ends is given by the start's registers and queues, which the two schedules share. -/
theorem interleavingsAgree : Obligations.InterleavingsAgree := by
  intro k k' slots s t t' hm hslots h h' hf hf' hA hB hA' hB'
  refine BitVec.eq_of_toInt_eq ?_
  calc t.position.toInt = expectedPosition s := interleavingResult k s t hm h hf hA hB
    _ = expectedPosition { s with schedule := slots } := rfl
    _ = t'.position.toInt :=
      (interleavingResult k' _ t' (monitoring_reschedule hm hslots) h' hf' hA' hB').symm

end Sys2Proof.Machine
end

section
/-! Reset and hazards (70_reset_and_hazards R191, R192, R196, R200): the reset step, what reset and idle leave to be issued, and
`PreconditionViolation` after `initialize_state`. -/

namespace Sys2Proof.Machine

open Sys2Proof.Safety

/-! ### Reset and idle steps -/

/-- The reset arm of `step`: `rst` high, with any word or none on the port. -/
theorem step_of_reset {s : State} (hrst : s.presented.rst = true) : step s = .next (performReset s.delivered) := by
  simp [step, hrst]

/-- Settles O35. -/
theorem resetStep : Obligations.ResetStep :=
  fun _ hrst => ⟨_, step_of_reset hrst, rfl, rfl, rfl, rfl, rfl⟩

/-- Settles O36: every step leaves the environment as delivery left it, and with `rst` high or no command the step is a reset or
an idle one, which have no response. -/
theorem pendingWordsKept : Obligations.PendingWordsKept := by
  intro s h
  obtain ⟨t, ht⟩ := exists_step_eq_next s
  refine ⟨t, ht, ?_, step_environment ht⟩
  rcases step_cases ht with ⟨-, rfl⟩ | ⟨-, -, rfl⟩ | ⟨hrst, w, why, hw, -⟩ | ⟨hrst, w, i, hw, -⟩
  · rfl
  · rfl
  · simp [hrst, hw] at h
  · simp [hrst, hw] at h

/-! ### No `PreconditionViolation` once initialized -/

/-- From `s`, `t` has the `PRECOND` bit as it was and does not respond `PRECOND`. -/
def NoPreconditionRaised (s t : State) : Prop :=
  t.faulted .preconditionViolation = s.faulted .preconditionViolation ∧ ∀ d, t.response ≠ some ⟨.precond, d⟩

/-- Responding `OK` is no `PRECOND` response. -/
theorem noPreconditionRaised_respond_ok {s u : State}
    (h : u.faulted .preconditionViolation = s.faulted .preconditionViolation) (d : Data) :
    NoPreconditionRaised s (respond .ok d u) :=
  ⟨h, by simp⟩

/-- Each other cause has its own bit and its own response status. -/
theorem noPreconditionRaised_raise {c : Cause} (hc : c ≠ .preconditionViolation) (s : State) :
    NoPreconditionRaised s (raise c s) := by
  obtain ⟨-, -, hothers, hresponse, -⟩ := faultEntry c s
  refine ⟨hothers _ hc.symm, fun d => ?_⟩
  rw [hresponse]
  cases c <;> simp [Cause.rspStatus] at hc ⊢

theorem noPreconditionRaised_accumulate (d : Int) (s : State) : NoPreconditionRaised s (accumulate d s) := by
  rcases accumulate_cases d s with ⟨-, -, e⟩ | ⟨-, e⟩ <;> rw [e]
  · exact noPreconditionRaised_respond_ok (setPosition_faulted _ _ s) 0
  · exact noPreconditionRaised_raise (by decide) s

/-- The one command that raises `PreconditionViolation` is a tick with `INIT` clear. -/
theorem exec_noPreconditionRaised {i : Instr} {s t : State} (hi : s.initialized = true) (h : exec i s = .next t) :
    NoPreconditionRaised s t := by
  rcases exec_cases h with ⟨a, b, -, rfl⟩ | ⟨-, hclear, -⟩ | ⟨-, -, n, d, rfl⟩ | ⟨-, d, rfl⟩ | ⟨-, d, rfl⟩
  · exact noPreconditionRaised_respond_ok (markInitialized_faulted _ s) 0
  · simp [hi] at hclear
  · exact noPreconditionRaised_accumulate d s
  · exact noPreconditionRaised_respond_ok (clearCounters_faulted _ s) d
  · exact noPreconditionRaised_respond_ok rfl d

theorem step_noPreconditionRaised {s t : State} (hi : s.initialized = true) (hrst : s.presented.rst = false)
    (h : step s = .next t) : NoPreconditionRaised s.delivered t := by
  rcases step_cases h with ⟨hr, -⟩ | ⟨-, -, rfl⟩ | ⟨-, w, why, -, -, rfl⟩ | ⟨-, w, i, -, -, he⟩
  · simp [hrst] at hr
  · exact ⟨rfl, by simp⟩
  · exact noPreconditionRaised_raise (by decide) s.delivered
  · exact exec_noPreconditionRaised ((delivered_initialized s).trans hi) he

/-- Settles O31: `INIT` is sticky, and no step from an initialized state raises the fault. -/
theorem noPreconditionFaultAfterInitialize : Obligations.NoPreconditionFaultAfterInitialize := by
  intro s hi hrst
  obtain ⟨t, h⟩ := exists_step_eq_next s
  obtain ⟨hbit, hresponse⟩ := step_noPreconditionRaised hi hrst h
  exact ⟨t, h, getLsbD_status_of_step h hrst hi, hbit.trans (delivered_faulted _ s), hresponse⟩

end Sys2Proof.Machine
end
